-- ==== Sys2Proof/Word.lean ====
section
/-! DEFINITION. The bit-vector widths the spec uses (00_scope.md R10 to R12): 32-bit registers and bus words,
bytes, and the 64-bit counter and timestamp. -/

namespace Sys2Proof

/-- A register or bus word, `XLEN` = 32 bits (R8). -/
abbrev Word := BitVec 32

/-- One byte (R12). -/
abbrev Byte := BitVec 8

/-- The width of the counter and of the timestamp (R8). -/
abbrev Dword := BitVec 64

end Sys2Proof
end

