-- ==== Sys2Proof/Syntax.lean ====
section
/-! DEFINITION. The commands of the block, one constructor per row of spec/opcode_table.json (30_encoding.md R111).
The only field a command word has beside its opcode is `EXPLICIT_TS` (R112), which only TCOUNT and TOTP may set. -/

namespace Sys2Proof

/-- A command (R111). `explicitTs` is bit 8 of the word: false takes the wall clock sampled at acceptance, true takes
the `TIMESTAMP` register (R112). -/
inductive Instr where
  | nop
  | decode
  | hmac
  | reduce
  | hotp
  | tcount (explicitTs : Bool)
  | totp (explicitTs : Bool)
  | clear
  deriving DecidableEq, Repr

end Sys2Proof
end

