-- ==== Sys2Proof/WellFormed.lean ====
section
/-! DEFINITION. Which command words are legal (30_encoding.md R113), written from that rule's two cases and not from
the decoder. A term of `Instr` has no ill-formed value: its one field is a Bool (R115: no command carries an operand). -/

namespace Sys2Proof

/-- R113, first case: an opcode `0x0` to `0x7` that is neither `0x5` nor `0x6`, and `w[31:4] = 0`. -/
def legalPlain (w : Word) : Bool :=
  decide ((w.extractLsb' 0 4).toNat ≤ 7) && (w.extractLsb' 0 4 != 5) && (w.extractLsb' 0 4 != 6)
    && (w.extractLsb' 4 28 == 0)

/-- R113, second case: opcode `0x5` or `0x6`, `w[7:4] = 0` and `w[31:9] = 0`, with `w[8]` either value. -/
def legalTimed (w : Word) : Bool :=
  (w.extractLsb' 0 4 == 5 || w.extractLsb' 0 4 == 6) && (w.extractLsb' 4 4 == 0) && (w.extractLsb' 9 23 == 0)

/-- R113: the legal command words. Any other word is illegal. -/
def legalWord (w : Word) : Bool :=
  legalPlain w || legalTimed w

end Sys2Proof
end

