-- ==== Sys2Proof/Decode.lean ====
section
/-! DEFINITION. The decoder of command words, total on all 2^32 words (30_encoding.md R114), then the encoder (R110 to
R112). A command is one word written to `CMD` in one transaction, never bytes in memory (R117, R65). -/

namespace Sys2Proof

/-- Why a word is illegal (R116). The block reports one code for all three, `ERR_ILLEGAL_CMD`. -/
inductive IllegalWord where
  /-- a bit of [7:4] or [31:9] is set -/
  | reservedBits
  /-- bit 8 is set and the opcode is neither TCOUNT nor TOTP -/
  | explicitTsNotAllowed
  /-- the opcode is `0x8` to `0xF` -/
  | reservedOpcode
  deriving DecidableEq, Repr

/-- What the decoder answers: `Cmd | Illegal` of R114. -/
inductive Decoded where
  | legal (i : Instr)
  | illegal (why : IllegalWord)
  deriving DecidableEq, Repr

/-- The opcode field, bits [3:0] (R110). -/
def opField (w : Word) : BitVec 4 := w.extractLsb' 0 4

/-- `EXPLICIT_TS`, bit 8 (R110, R112). -/
def tsField (w : Word) : Bool := w.getLsbD 8

/-- The reserved bits, [7:4] and [31:9], are all 0 (R110). -/
def reservedClear (w : Word) : Bool := w.extractLsb' 9 23 == 0 && w.extractLsb' 4 4 == 0

/-- `decodeCmd` of R114, its tests in the rule's order. -/
def decodeCmd (w : Word) : Decoded :=
  if !reservedClear w then .illegal .reservedBits
  else if opField w == 0x5 then .legal (.tcount (tsField w))
  else if opField w == 0x6 then .legal (.totp (tsField w))
  else if tsField w then .illegal .explicitTsNotAllowed
  else if opField w == 0x0 then .legal .nop
  else if opField w == 0x1 then .legal .decode
  else if opField w == 0x2 then .legal .hmac
  else if opField w == 0x3 then .legal .reduce
  else if opField w == 0x4 then .legal .hotp
  else if opField w == 0x7 then .legal .clear
  else .illegal .reservedOpcode

/-- The command a decoder's answer holds, none where it refuses. -/
def Decoded.instr? : Decoded → Option Instr
  | .legal i => some i
  | .illegal _ => none

/-- The word of a command whose bits the opcode table numbers: one 32-bit word, every bit above the row's `nbits` 0
(R117). -/
def tableWord (nbits w : Nat) : Word := BitVec.ofNat 32 (w % 2 ^ nbits)

/-- The decoder's answer on the word whose bits are `w`, bit 0 the least significant (R110). -/
def decodeTableWord (nbits w : Nat) : Option Instr := (decodeCmd (tableWord nbits w)).instr?

/-- The opcode of a command (R111). -/
def Instr.opcode : Instr → Word
  | .nop => 0x0
  | .decode => 0x1
  | .hmac => 0x2
  | .reduce => 0x3
  | .hotp => 0x4
  | .tcount _ => 0x5
  | .totp _ => 0x6
  | .clear => 0x7

/-- `EXPLICIT_TS` of a command (R112): 0 for every command but TCOUNT and TOTP. -/
def Instr.explicitTs : Instr → Bool
  | .tcount x => x
  | .totp x => x
  | .nop | .decode | .hmac | .reduce | .hotp | .clear => false

/-- The command word of a command (R110): the opcode in [3:0], `EXPLICIT_TS` in bit 8, every other bit 0. -/
def encode (i : Instr) : Word :=
  i.opcode ||| (if i.explicitTs then 0x100 else 0)

end Sys2Proof
end

