-- ==== Sys2Proof/Config.lean ====
section
/-! DEFINITION. What this hardware fixes (00_scope.md R8, R9) and the one parameter the platform gives. -/

namespace Sys2Proof

/-- Capacity of `IN_BUF` in characters (R8, D7). -/
def Config.inMax : Nat := 256

/-- Capacity of `KEY_BUF` in bytes, `floor(5 * IN_MAX / 8)` (R8, D7). -/
def Config.keyMax : Nat := 160

/-- The largest legal digit count (R8, D8). -/
def Config.digitsMax : Nat := 10

/-- Reset value of `DIGITS` (R43). -/
def Config.digitsDefault : BitVec 4 := 6

/-- Reset value of `TIME_STEP` (R44). -/
def Config.timeStepDefault : Word := 30

/-- The constant of the `ID` register, "TOTP" in ASCII (R33). -/
def Config.idWord : Word := 0x544F5450

/-- Size of the register window in bytes (R8, R83). -/
def Config.windowBytes : Nat := 4096

/-- The SHA-1 block size in bytes (R8). -/
def Config.blockBytes : Nat := 64

/-- The digest length in bytes (R8). -/
def Config.digestBytes : Nat := 20

/-- The length of `CODE_CHARS` in bytes (R58). -/
def Config.codeCharsBytes : Nat := 12

/-- `BASE`, the window's base address: an OPEN parameter of the platform which a model must not fix (R9, R83), so it
has no body. Log entry 11. -/
opaque Config.base : Nat

end Sys2Proof
end

