-- ==== Sys2Proof/Machine/State.lean ====
section
/-! DEFINITION. The state of one block instance (10_state.md R30 to R63) as plain data, the transactions and inputs the
outside gives it, the reasons a step can stop, and the state right after reset (R68). -/

namespace Sys2Proof.Machine

/-- The registers of the window (R31), by the names the spec gives them. -/
inductive Reg where
  | id | ctrl | cmd | status | inLen | keyLen | digits | timeStep | timestampLo | timestampHi | counterLo | counterHi
  | secRemain | offset | binary | code | decValid | decDropped | decTail
  deriving DecidableEq, Repr

/-- The byte buffers of the window (R31, R54). -/
inductive Buf where
  | digest | codeChars | inBuf | keyBuf
  deriving DecidableEq, Repr

/-- What a mapped offset of the window belongs to (R31). -/
inductive Place where
  | reg (r : Reg)
  | buf (b : Buf)
  deriving DecidableEq, Repr

/-- The fields of `STATUS` (R36). The reserved bits are no state: they read 0 and writes to them are ignored (R32). -/
structure Status where
  busy : Bool
  done : Bool
  err : Bool
  wign : Bool
  errCode : BitVec 4
  deriving DecidableEq, Repr

/-- The engine phase (R59): `Running` holds the opcode field and the accepted command word. -/
inductive Phase where
  | idle
  | running (op : BitVec 4) (word : Word)
  deriving DecidableEq, Repr

/-- The checks a command can fail, each with an error of its own (R144, R271). -/
inductive CmdError where
  | illegalCmd | inLen | keyLen | digits | timeStep
  deriving DecidableEq, Repr

/-- A host transaction (R80). `bytes` is the access width the bus shows, of which only 4 is served (R85, R276 (c)). -/
inductive HostTxn where
  | read (off : BitVec 12) (bytes : Nat)
  | write (off : BitVec 12) (bytes : Nat) (data : Word)
  deriving DecidableEq, Repr

/-- The block's response to a host transaction (R80). -/
inductive Response where
  /-- `Okay(rdata)` -/
  | okayData (data : Word)
  /-- `Okay` for a write -/
  | okay
  /-- `BusError` (R276) -/
  | busError
  /-- the transaction met an asserted `RST`: it has no defined response, and `data` is a free value (R301, U10) -/
  | undefinedByReset (data : Word)
  deriving DecidableEq, Repr

/-- Which agent moves in a step (R140). -/
inductive Event where
  /-- no agent of the block moves; only the pins are driven -/
  | quiet
  /-- the engine takes its completion step, if a command is running -/
  | engine
  /-- the host performs one transaction -/
  | host (t : HostTxn)
  deriving DecidableEq, Repr

/-- What the outside does in one step: the levels on the input pins (R63), the values the spec leaves to a draw, and
which agent moves. Log entries 1, 3, 5 and 6. -/
structure Input where
  /-- the level of `WALLCLOCK` during this step (R63, U3) -/
  wallclock : Dword
  /-- the level of `RST` during this step (R300) -/
  rst : Bool
  /-- the 32-bit draw of a read whose value is unspecified (R308, U1, U10) -/
  freeData : Word
  /-- the draw `TS_SAMPLE` holds after a reset (R60, U2) -/
  freeSample : Dword
  event : Event
  deriving DecidableEq, Repr

/-- Why the machine stops. -/
inductive Fault where
  /-- Raised by a host transaction at a reserved or misaligned offset or of a width other than 32 bits (R276, R84, R85).
  SAFE: the spec has a model record it as a fault of the host step, and no state changes. -/
  | busError (off : BitVec 12)
  deriving DecidableEq, Repr

/-- Why a command has no meaning. -/
inductive Refusal where
  /-- Raised by an arm of `exec` whose command has no meaning yet. SAFE: nothing is claimed of it. No arm raises it. -/
  | notModelled (mnemonic : String)
  deriving DecidableEq, Repr

/-- The state of one block instance (R30). -/
@[ext]
structure State where
  /-- `CTRL.IE` (R34) -/
  ie : Bool
  /-- `CMD`, the last accepted command word (R35) -/
  cmd : Word
  /-- `STATUS` (R36) -/
  status : Status
  /-- `IN_LEN.LEN` (R41) -/
  inLen : BitVec 16
  /-- `KEY_LEN.LEN` (R42) -/
  keyLen : BitVec 16
  /-- `DIGITS.N` (R43) -/
  digits : BitVec 4
  /-- `TIME_STEP.STEP` (R44) -/
  timeStep : Word
  /-- `TIMESTAMP_LO` (R45) -/
  timestampLo : Word
  /-- `TIMESTAMP_HI` (R45) -/
  timestampHi : Word
  /-- `COUNTER_LO` (R46) -/
  counterLo : Word
  /-- `COUNTER_HI` (R46) -/
  counterHi : Word
  /-- `SEC_REMAIN` (R47) -/
  secRemain : Word
  /-- `OFFSET` (R48) -/
  offset : BitVec 4
  /-- `BINARY` (R49); bit 31 is reserved and reads 0 -/
  binary : BitVec 31
  /-- `CODE` (R50) -/
  code : Word
  /-- `DEC_VALID` (R51) -/
  decValid : BitVec 9
  /-- `DEC_DROPPED` (R52) -/
  decDropped : BitVec 9
  /-- `DEC_TAIL` (R53) -/
  decTail : BitVec 3
  /-- the bytes of `DIGEST`, `CODE_CHARS`, `IN_BUF` and `KEY_BUF` (R54 to R58), keyed by window offset, addresses
  strictly rising, no byte 0x00 listed. Log entry 10. -/
  mem : List Host.Cell
  /-- the engine phase (R59) -/
  phase : Phase
  /-- `TS_SAMPLE` (R60) -/
  tsSample : Dword
  /-- the level on the `WALLCLOCK` input (R63) -/
  wallclock : Dword
  /-- the level on the `RST` input (R63, R300) -/
  rst : Bool
  /-- the bus port's output: the response to the last host transaction (R80), none before the first -/
  resp : Option Response
  /-- the MODEL's own field: what the outside does in the coming steps, the next first. Log entry 1. -/
  inputs : List Input
  deriving DecidableEq, Repr

/-- The machine right after reset (R68, R300). `TS_SAMPLE` and the level on `WALLCLOCK`, for which the spec gives no
value, are 0 by DESIGN CHOICE (log entries 3 and 4); the reset pin is released. -/
def State.reset : State where
  ie := false
  cmd := 0
  status := { busy := false, done := false, err := false, wign := false, errCode := 0 }
  inLen := 0
  keyLen := 0
  digits := Config.digitsDefault
  timeStep := Config.timeStepDefault
  timestampLo := 0
  timestampHi := 0
  counterLo := 0
  counterHi := 0
  secRemain := 0
  offset := 0
  binary := 0
  code := 0
  decValid := 0
  decDropped := 0
  decTail := 0
  mem := []
  phase := .idle
  tsSample := 0
  wallclock := 0
  rst := false
  resp := none
  inputs := []

end Sys2Proof.Machine
end

