-- ==== Sys2Proof/Machine/Ops.lean ====
section
/-! DEFINITION. The named operations over the byte buffers and registers: the byte store, byte strings (R12), the byte
buffers (R54), the 64-bit register pairs (R45, R46), acceptance of a command (40_command_engine.md R143), and the two
ways a command ends: `raise CmdError` (R147), the block's counterpart of taking an exception (60_exceptions.md R275), and
the tail of `commit` (R148). There is no return from it: the host acknowledges by a write of `STATUS` (R278). -/

namespace Sys2Proof.Machine

/-! ### Byte strings (R12) -/

/-- `be_n(v)`: the `n` low bytes of `v`, most significant first. -/
def beBytes : Nat → Nat → List Byte
  | 0, _ => []
  | n + 1, v => BitVec.ofNat 8 (v / 256 ^ n) :: beBytes n v

/-- `from_be(s)`: the number a byte string holds, most significant byte first. -/
def fromBe (s : List Byte) : Nat :=
  s.foldl (fun acc b => acc * 256 + b.toNat) 0

/-- `s` with zero bytes after it up to length `n`, cut at `n`. -/
def padZeros (n : Nat) (s : List Byte) : List Byte :=
  (List.range n).map fun i => s.getD i 0

/-! ### The byte store -/

/-- The canonical form of the byte store: addresses strictly rising, no entry equal to what an unlisted address reads
as. -/
abbrev Memory.wf (m : List Host.Cell) : Prop :=
  m.Pairwise (fun a b => a.1 < b.1) ∧ ∀ c ∈ m, c.2 ≠ 0

/-- The byte at address `a`. An unlisted address reads 0x00, the reset contents of every buffer (R55 to R58). -/
def Memory.read : List Host.Cell → Nat → Byte
  | [], _ => 0
  | c :: m, a => if c.1 = a then c.2 else Memory.read m a

/-- A cell put before the first cell of a higher address. -/
def Memory.insert : List Host.Cell → Host.Cell → List Host.Cell
  | [], c => [c]
  | d :: m, c => if c.1 < d.1 then c :: d :: m else d :: Memory.insert m c

/-- The store with the byte at `a` set to `b`; writing 0x00 removes the entry. -/
def Memory.write (m : List Host.Cell) (a : Nat) (b : Byte) : List Host.Cell :=
  let rest := m.filter fun c => c.1 != a
  if b = 0 then rest else Memory.insert rest (a, b)

/-- The bytes of `s` written from address `a` on. -/
def Memory.writeBytes : List Host.Cell → Nat → List Byte → List Host.Cell
  | m, _, [] => m
  | m, a, b :: s => Memory.writeBytes (Memory.write m a b) (a + 1) s

/-- The `n` bytes from address `a` on. -/
def Memory.readBytes (m : List Host.Cell) (a n : Nat) : List Byte :=
  (List.range n).map fun i => Memory.read m (a + i)

/-- A bus word from four byte lanes, lane 0 least significant (R54, R81). -/
def Memory.readWord (m : List Host.Cell) (a : Nat) : Word :=
  Memory.read m (a + 3) ++ Memory.read m (a + 2) ++ Memory.read m (a + 1) ++ Memory.read m a

/-- The four byte lanes of a bus word, lane 0 first (R81). -/
def lanes (w : Word) : List Byte :=
  [w.extractLsb' 0 8, w.extractLsb' 8 8, w.extractLsb' 16 8, w.extractLsb' 24 8]

/-! ### The byte buffers (R31, R54) -/

/-- The offset of byte 0 of a buffer (R31). -/
def Buf.base : Buf → Nat
  | .digest => 0x050
  | .codeChars => 0x064
  | .inBuf => 0x100
  | .keyBuf => 0x200

/-- The number of bytes of a buffer (R55 to R58). -/
def Buf.size : Buf → Nat
  | .digest => Config.digestBytes
  | .codeChars => Config.codeCharsBytes
  | .inBuf => Config.inMax
  | .keyBuf => Config.keyMax

/-- `BUF[i]` (R13). -/
def State.byteOf (s : State) (b : Buf) (i : Nat) : Byte :=
  Memory.read s.mem (b.base + i)

/-- `BUF[0 .. n)`. -/
def State.bytesOf (s : State) (b : Buf) (n : Nat) : List Byte :=
  Memory.readBytes s.mem b.base n

/-- All bytes of a buffer written at once: `BUF[i] <- v[i]`, 0x00 where `v` has no byte `i` (R163). -/
def State.fillBuf (s : State) (b : Buf) (v : List Byte) : State :=
  { s with mem := Memory.writeBytes s.mem b.base (padZeros b.size v) }

/-! ### The 64-bit register pairs (R45, R46) -/

/-- `COUNTER = {COUNTER_HI, COUNTER_LO}` (R46). -/
def State.counter (s : State) : Dword := s.counterHi ++ s.counterLo

/-- `COUNTER <- v` (R46, R241). -/
def State.setCounter (s : State) (v : Dword) : State :=
  { s with counterHi := v.extractLsb' 32 32, counterLo := v.extractLsb' 0 32 }

/-- `TIMESTAMP = {TIMESTAMP_HI, TIMESTAMP_LO}` (R45). -/
def State.timestamp (s : State) : Dword := s.timestampHi ++ s.timestampLo

/-- `TIMESTAMP <- v` (R45, R241). -/
def State.setTimestamp (s : State) (v : Dword) : State :=
  { s with timestampHi := v.extractLsb' 32 32, timestampLo := v.extractLsb' 0 32 }

/-! ### Acceptance and the two ends of a command -/

/-- Acceptance of the command word `w`, sampling the wall clock now on the pins (R143). `WIGN` is unchanged. -/
def State.accept (s : State) (w : Word) : State :=
  { s with
    cmd := w
    tsSample := s.wallclock
    status := { s.status with done := false, err := false, errCode := 0, busy := true }
    phase := .running (opField w) w }

/-- The value of `STATUS.ERRCODE` for an error (R271). -/
def CmdError.code : CmdError → BitVec 4
  | .illegalCmd => 1
  | .inLen => 2
  | .keyLen => 3
  | .digits => 4
  | .timeStep => 5

/-- `raise CmdError(code)` (R147, R275): the running command ends with an error; no register or buffer changes. -/
def State.raiseCmdError (s : State) (e : CmdError) : State :=
  { s with
    status := { s.status with busy := false, done := true, err := true, errCode := e.code }
    phase := .idle }

/-- The tail of `commit` (R148): `ERR` and `ERRCODE` stay as acceptance left them. -/
def State.finish (s : State) : State :=
  { s with
    status := { s.status with busy := false, done := true }
    phase := .idle }

/-- `BASE + off`, the bus address of a window offset (R83). -/
def busAddress (off : BitVec 12) : Nat := Config.base + off.toNat

/-- The window offset of a bus address, none outside the window, which the block does not decode (R83). -/
def windowOffset (addr : Nat) : Option (BitVec 12) :=
  if Config.base ≤ addr ∧ addr < Config.base + Config.windowBytes then some (BitVec.ofNat 12 (addr - Config.base)) else none

end Sys2Proof.Machine
end

