-- ==== Sys2Proof/Machine/Flags.lean ====
section
/-! DEFINITION. The only flags of the block, the `STATUS` bits (10_state.md R36 to R40, R66), as a register word, their
clearing by a host write, the flag a busy write sets, and the interrupt output computed from them (R62). What acceptance
and the two ends of a command do to them stands in Machine/Ops.lean. -/

namespace Sys2Proof.Machine

/-- `STATUS` as the host reads it: `ERRCODE` at [11:8], `WIGN`, `ERR`, `DONE`, `BUSY` at [3:0], 0 elsewhere (R36). -/
def Status.word (t : Status) : Word :=
  (0 : BitVec 20) ++ t.errCode ++ (0 : BitVec 4) ++ BitVec.ofBool t.wign ++ BitVec.ofBool t.err ++ BitVec.ofBool t.done
    ++ BitVec.ofBool t.busy

/-- A host write of `STATUS`: bit 1 clears `DONE`, bit 2 clears `ERR` and `ERRCODE`, bit 3 clears `WIGN`; `BUSY`, the
bits [11:8] and the reserved bits ignore it (R36 to R40). -/
def Status.clearW1C (t : Status) (d : Word) : Status where
  busy := t.busy
  done := t.done && !d.getLsbD 1
  err := t.err && !d.getLsbD 2
  wign := t.wign && !d.getLsbD 3
  errCode := if d.getLsbD 2 then 0 else t.errCode

/-- A host write was ignored because the engine is busy (R40, R307). -/
def State.setWign (s : State) : State := { s with status := { s.status with wign := true } }

/-- The output `IRQ = CTRL.IE & STATUS.DONE` (R62). -/
def State.irq (s : State) : Bool := s.ie && s.status.done

end Sys2Proof.Machine
end

