-- ==== Sys2Proof/Machine/Operands.lean ====
section
/-! DEFINITION. The operand forms of the commands (30_encoding.md R115): every operand comes from a fixed register or
buffer. Then the checks on them (40_command_engine.md R144) and the read and write sets (R141). -/

namespace Sys2Proof.Machine

/-- The secret: `IN_BUF[0 .. IN_LEN)` (R115). -/
def State.secret (s : State) : List Byte := s.bytesOf .inBuf s.inLen.toNat

/-- The key: `KEY_BUF[0 .. KEY_LEN)` (R115). -/
def State.key (s : State) : List Byte := s.bytesOf .keyBuf s.keyLen.toNat

/-- The digest: `DIGEST[0 .. 20)` (R222). -/
def State.digest (s : State) : List Byte := s.bytesOf .digest Config.digestBytes

/-- The timestamp TCOUNT and TOTP use (R112): `TIMESTAMP` if `EXPLICIT_TS` = 1, else `TS_SAMPLE`. -/
def State.timeOperand (s : State) (explicitTs : Bool) : Dword :=
  if explicitTs then s.timestamp else s.tsSample

/-- The condition under which a check of R144 fails. Whether a word is illegal is the decoder's answer on `CMD`. -/
def CmdError.fails (e : CmdError) (s : State) : Bool :=
  match e with
  | .illegalCmd => (decodeCmd s.cmd).instr?.isNone
  | .inLen => decide (Config.inMax < s.inLen.toNat)
  | .keyLen => decide (Config.keyMax < s.keyLen.toNat)
  | .digits => decide (s.digits.toNat = 0) || decide (Config.digitsMax < s.digits.toNat)
  | .timeStep => decide (s.timeStep = 0)

/-- `firstFailingCheck` (R144, R274): the first of the given checks that fails. -/
def firstFailing (checks : List CmdError) (s : State) : Option CmdError :=
  checks.find? fun e => e.fails s

/-- A command past the decoder (R146): if a check fails it raises that error and commits nothing, else it commits its
results and completes. -/
def validated (checks : List CmdError) (commit : State → State) (s : State) : Host.Outcome State Fault Refusal :=
  match firstFailing checks s with
  | some e => .next (s.raiseCmdError e)
  | none => .next (commit s).finish

/-- `Wr(op)` of R141: the registers and buffers of the window a command writes, besides `STATUS`. -/
def Instr.writeSet : Instr → List Place
  | .nop => []
  | .decode => [.buf .keyBuf, .reg .keyLen, .reg .decValid, .reg .decDropped, .reg .decTail]
  | .hmac => [.buf .digest]
  | .reduce => [.reg .offset, .reg .binary, .reg .code, .buf .codeChars]
  | .hotp => [.buf .digest, .reg .offset, .reg .binary, .reg .code, .buf .codeChars]
  | .tcount explicitTs =>
    [.reg .counterLo, .reg .counterHi, .reg .secRemain]
      ++ (if explicitTs then [] else [.reg .timestampLo, .reg .timestampHi])
  | .totp explicitTs =>
    [.buf .keyBuf, .reg .keyLen, .reg .decValid, .reg .decDropped, .reg .decTail, .reg .counterLo, .reg .counterHi,
      .reg .secRemain, .buf .digest, .reg .offset, .reg .binary, .reg .code, .buf .codeChars]
      ++ (if explicitTs then [] else [.reg .timestampLo, .reg .timestampHi])
  | .clear =>
    [.buf .inBuf, .reg .inLen, .buf .keyBuf, .reg .keyLen, .reg .timestampLo, .reg .timestampHi, .reg .counterLo,
      .reg .counterHi, .reg .secRemain, .reg .offset, .reg .binary, .reg .code, .reg .decValid, .reg .decDropped,
      .reg .decTail, .buf .digest, .buf .codeChars]

/-- `Rd(op)` of R141, less the hidden `TS_SAMPLE`: the registers and buffers of the window a command reads. -/
def Instr.readSet : Instr → List Place
  | .nop => []
  | .decode => [.reg .inLen, .buf .inBuf]
  | .hmac => [.reg .keyLen, .buf .keyBuf, .reg .counterLo, .reg .counterHi]
  | .reduce => [.buf .digest, .reg .digits]
  | .hotp => [.reg .keyLen, .buf .keyBuf, .reg .counterLo, .reg .counterHi, .reg .digits]
  | .tcount explicitTs =>
    .reg .timeStep :: (if explicitTs then [.reg .timestampLo, .reg .timestampHi] else [])
  | .totp explicitTs =>
    [.reg .inLen, .buf .inBuf, .reg .timeStep, .reg .digits]
      ++ (if explicitTs then [.reg .timestampLo, .reg .timestampHi] else [])
  | .clear => []

end Sys2Proof.Machine
end

