-- ==== Sys2Proof/Machine/Bus.lean ====
section
/-! DEFINITION. The bus slave port (20_memory.md R80): the address map (10_state.md R31), reads and writes of registers
and buffer words (R32), what a busy engine does to them (R40, 70_reset_and_hazards.md R307, R308), and bus errors
(60_exceptions.md R276). -/

namespace Sys2Proof.Machine

/-- The registers of the window with their offsets (R31). -/
def regMap : List (Nat × Reg) :=
  [(0x000, .id), (0x004, .ctrl), (0x008, .cmd), (0x00C, .status), (0x010, .inLen), (0x014, .keyLen), (0x018, .digits),
    (0x01C, .timeStep), (0x020, .timestampLo), (0x024, .timestampHi), (0x028, .counterLo), (0x02C, .counterHi),
    (0x030, .secRemain), (0x034, .offset), (0x038, .binary), (0x03C, .code), (0x040, .decValid), (0x044, .decDropped),
    (0x048, .decTail)]

/-- The buffers of the window (R31). -/
def bufMap : List Buf := [.digest, .codeChars, .inBuf, .keyBuf]

/-- An offset lies inside a buffer (R31). -/
def Buf.holds (b : Buf) (off : Nat) : Bool := decide (b.base ≤ off) && decide (off < b.base + b.size)

/-- What an offset belongs to, none where it is reserved or misaligned (R31, R84, R85). -/
def placeAt (off : Nat) : Option Place :=
  if off % 4 ≠ 0 then none
  else match regMap.find? (fun p => p.1 == off) with
    | some p => some (.reg p.2)
    | none => (bufMap.find? fun b => b.holds off).map .buf

/-- What a transaction of `bytes` bytes at `off` reaches, none where it gets a bus error (R276). -/
def busTarget (off : BitVec 12) (bytes : Nat) : Option Place :=
  if bytes = 4 then placeAt off.toNat else none

/-- The value of a register as the host reads it: its fields at their bit positions, 0 elsewhere (R32 (e)). -/
def State.readReg (s : State) : Reg → Word
  | .id => Config.idWord
  | .ctrl => if s.ie then 1 else 0
  | .cmd => s.cmd
  | .status => s.status.word
  | .inLen => s.inLen.setWidth 32
  | .keyLen => s.keyLen.setWidth 32
  | .digits => s.digits.setWidth 32
  | .timeStep => s.timeStep
  | .timestampLo => s.timestampLo
  | .timestampHi => s.timestampHi
  | .counterLo => s.counterLo
  | .counterHi => s.counterHi
  | .secRemain => s.secRemain
  | .offset => s.offset.setWidth 32
  | .binary => s.binary.setWidth 32
  | .code => s.code
  | .decValid => s.decValid.setWidth 32
  | .decDropped => s.decDropped.setWidth 32
  | .decTail => s.decTail.setWidth 32

/-- The value the word at offset `off` of a place holds (R32, R54). -/
def State.valueAt (s : State) (p : Place) (off : Nat) : Word :=
  match p with
  | .reg r => s.readReg r
  | .buf _ => Memory.readWord s.mem off

/-- The command now running, none while idle or for an illegal word (R59, R114). -/
def State.runningInstr (s : State) : Option Instr :=
  match s.phase with
  | .idle => none
  | .running _ w => (decodeCmd w).instr?

/-- A read of this place gives an unspecified value: the engine is busy with a command that writes it (R308). -/
def State.readUnspecified (s : State) (p : Place) : Bool :=
  s.status.busy && match s.runningInstr with
    | some i => (Instr.writeSet i).contains p
    | none => false

/-- A host read (R86, R308); `free` is the draw for an unspecified value. -/
def State.busRead (s : State) (p : Place) (off : Nat) (free : Word) : Word :=
  if s.readUnspecified p then free else s.valueAt p off

/-- The places whose writes a busy engine ignores (R40, R307). -/
def Place.busyProtected : Place → Bool
  | .reg .cmd | .reg .inLen | .reg .keyLen | .reg .digits | .reg .timeStep | .reg .timestampLo | .reg .timestampHi
  | .reg .counterLo | .reg .counterHi | .buf .inBuf | .buf .keyBuf => true
  | .reg .id | .reg .ctrl | .reg .status | .reg .secRemain | .reg .offset | .reg .binary | .reg .code | .reg .decValid
  | .reg .decDropped | .reg .decTail | .buf .digest | .buf .codeChars => false

/-- A write to a register that takes effect: RW fields store the corresponding bits, cut to their width (R32 (c)); a
write to `CMD` starts a command (R35); `STATUS` clears by ones (R36); an RO register ignores it (R32 (b)). -/
def State.writeReg (s : State) (r : Reg) (d : Word) : State :=
  match r with
  | .ctrl => { s with ie := d.getLsbD 0 }
  | .cmd => s.accept d
  | .status => { s with status := s.status.clearW1C d }
  | .inLen => { s with inLen := d.extractLsb' 0 16 }
  | .keyLen => { s with keyLen := d.extractLsb' 0 16 }
  | .digits => { s with digits := d.extractLsb' 0 4 }
  | .timeStep => { s with timeStep := d }
  | .timestampLo => { s with timestampLo := d }
  | .timestampHi => { s with timestampHi := d }
  | .counterLo => { s with counterLo := d }
  | .counterHi => { s with counterHi := d }
  | .id | .secRemain | .offset | .binary | .code | .decValid | .decDropped | .decTail => s

/-- A write to a buffer word that takes effect: an RW buffer word sets all four bytes (R54), an RO one ignores it. -/
def State.writeBuf (s : State) (b : Buf) (off : Nat) (d : Word) : State :=
  match b with
  | .inBuf | .keyBuf => { s with mem := Memory.writeBytes s.mem off (lanes d) }
  | .digest | .codeChars => s

/-- A host write (R87): to a busy-protected place while busy it is ignored and sets `WIGN` (R40, R307). -/
def State.busWrite (s : State) (p : Place) (off : Nat) (d : Word) : State :=
  if s.status.busy && p.busyProtected then s.setWign
  else match p with
    | .reg r => s.writeReg r d
    | .buf b => s.writeBuf b off d

/-- One host transaction: the block's response and the state after it (R80). A bus error changes no state (R276). -/
def State.respond (s : State) (t : HostTxn) (free : Word) : Response × State :=
  match t with
  | .read off bytes =>
    match busTarget off bytes with
    | some p => (.okayData (s.busRead p off.toNat free), s)
    | none => (.busError, s)
  | .write off bytes d =>
    match busTarget off bytes with
    | some p => (.okay, s.busWrite p off.toNat d)
    | none => (.busError, s)

/-- The offset of a transaction. -/
def HostTxn.off : HostTxn → BitVec 12
  | .read off _ => off
  | .write off _ _ => off

/-- The access width of a transaction in bytes. -/
def HostTxn.bytes : HostTxn → Nat
  | .read _ bytes => bytes
  | .write _ bytes _ => bytes

/-- A transaction that gets no bus error (R276). -/
def HostTxn.wellFormed (t : HostTxn) : Bool := (busTarget t.off t.bytes).isSome

/-- The host's step: one transaction, whose bus error a model records as a fault of the step (R276). -/
def hostStep (t : HostTxn) (free : Word) (s : State) : Host.Outcome State Fault Refusal :=
  match s.respond t free with
  | (.busError, _) => .fault (.busError t.off)
  | (r, s') => .next { s' with resp := some r }

end Sys2Proof.Machine
end

