-- ==== Sys2Proof/Machine/Control.lean ====
section
/-! DEFINITION. The control commands NOP and CLEAR (45_control.md). -/

namespace Sys2Proof.Machine

/-- NOP (R260): complete with no data effect. -/
def execNop (s : State) : Host.Outcome State Fault Refusal :=
  validated [] (fun s => s) s

/-- Every byte of the four buffers set to 0x00 (R261). -/
def Memory.clearBufs (m : List Host.Cell) : List Host.Cell :=
  [Buf.inBuf, .keyBuf, .digest, .codeChars].foldl (fun m b => Memory.writeBytes m b.base (List.replicate b.size 0)) m

/-- The data state zeroed (R261): all but `CTRL`, `DIGITS`, `TIME_STEP`, `CMD` and `WIGN`. -/
def State.clearData (s : State) : State :=
  { s with
    mem := Memory.clearBufs s.mem
    inLen := 0
    keyLen := 0
    timestampLo := 0
    timestampHi := 0
    counterLo := 0
    counterHi := 0
    secRemain := 0
    offset := 0
    binary := 0
    code := 0
    decValid := 0
    decDropped := 0
    decTail := 0 }

/-- CLEAR (R261): zero the data state. -/
def execClear (s : State) : Host.Outcome State Fault Refusal :=
  validated [] State.clearData s

end Sys2Proof.Machine
end

