-- ==== Sys2Proof/Machine/Base32.lean ====
section
/-! DEFINITION. The Base32 decoder and DECODE (41_base32_decode.md). -/

namespace Sys2Proof.Machine

/-- "uppercase the input" on ASCII letters only (R161, R169). -/
def upperAscii (c : Byte) : Byte :=
  if 0x61 ≤ c ∧ c ≤ 0x7A then c - 0x20 else c

/-- `b32val` (R161): the index of a character, none for a byte outside the alphabet, which is dropped. -/
def b32val (c : Byte) : Option Nat :=
  let u := upperAscii c
  if 0x41 ≤ u ∧ u ≤ 0x5A then some (u - 0x41).toNat
  else if 0x32 ≤ u ∧ u ≤ 0x37 then some ((u - 0x32).toNat + 26)
  else none

/-- The indices of the alphabet characters of `s`, order kept (`v` of R162). -/
def indices (s : List Byte) : List Nat := s.filterMap b32val

/-- The `5m`-bit stream as one number, the first index most significant (`acc` of R162). -/
def streamOf (v : List Nat) : Nat := v.foldl (fun acc x => acc * 32 + x) 0

/-- What decoding answers (R162): the bytes, the characters decoded and dropped, the bits discarded. -/
structure Decoding where
  out : List Byte
  nvalid : Nat
  ndropped : Nat
  tail : Nat
  deriving DecidableEq, Repr

/-- `decode` of R162: cut the stream into 8-bit groups from the start and discard the short last group. -/
def b32decode (s : List Byte) : Decoding :=
  let v := indices s
  let m := v.length
  let k := 5 * m / 8
  let t := 5 * m % 8
  { out := beBytes k (streamOf v / 2 ^ t), nvalid := m, ndropped := s.length - m, tail := t }

/-- The results of decoding, committed: `KEY_BUF` zero filled (R163), `KEY_LEN`, `DEC_VALID`, `DEC_DROPPED`,
`DEC_TAIL` (R164). -/
def State.putDecoding (s : State) (d : Decoding) : State :=
  { s with
    mem := (s.fillBuf .keyBuf d.out).mem
    keyLen := BitVec.ofNat 16 d.out.length
    decValid := BitVec.ofNat 9 d.nvalid
    decDropped := BitVec.ofNat 9 d.ndropped
    decTail := BitVec.ofNat 3 d.tail }

/-- DECODE (R164): `decode_base32` of the secret into the key buffer. -/
def execDecode (s : State) : Host.Outcome State Fault Refusal :=
  validated [.inLen] (fun s => s.putDecoding (b32decode s.secret)) s

end Sys2Proof.Machine
end

