-- ==== Sys2Proof/Machine/Hmac.lean ====
section
/-! DEFINITION. SHA-1, HMAC-SHA1 and the HMAC command (42_hmac_sha1.md). -/

namespace Sys2Proof.Machine

/-- `pad(M)` (R181). `(55 - L) mod 64` is taken on the integers, so 64 multiples are added before the subtraction. -/
def shaPad (msg : List Byte) : List Byte :=
  let len := msg.length
  msg ++ [0x80] ++ List.replicate ((55 + 64 * (len / 64 + 1) - len) % 64) 0 ++ beBytes 8 (8 * len)

/-- The `n` big-endian words a byte string begins with (R182). -/
def bigEndianWords : Nat → List Byte → List Word
  | 0, _ => []
  | n + 1, b => BitVec.ofNat 32 (fromBe (b.take 4)) :: bigEndianWords n (b.drop 4)

/-- `n` more words of the schedule, on the list of the words so far with the latest first: `W[t-3]`, `W[t-8]`,
`W[t-14]` and `W[t-16]` are its entries 2, 7, 13 and 15 (R182). -/
def extendSchedule : Nat → List Word → List Word
  | 0, ws => ws
  | n + 1, ws =>
    extendSchedule n ((ws.getD 2 0 ^^^ ws.getD 7 0 ^^^ ws.getD 13 0 ^^^ ws.getD 15 0).rotateLeft 1 :: ws)

/-- The message schedule `W[0 .. 80)` of a 64-byte block (R182). -/
def schedule (block : List Byte) : List Word :=
  (extendSchedule 64 (bigEndianWords 16 block).reverse).reverse

/-- `f_t(b, c, d)` (R183). -/
def roundFun (t : Nat) (b c d : Word) : Word :=
  if t < 20 then (b &&& c) ||| (~~~b &&& d)
  else if t < 40 then b ^^^ c ^^^ d
  else if t < 60 then (b &&& c) ||| (b &&& d) ||| (c &&& d)
  else b ^^^ c ^^^ d

/-- `K_t` (R183). -/
def roundConst (t : Nat) : Word :=
  if t < 20 then 0x5A827999
  else if t < 40 then 0x6ED9EBA1
  else if t < 60 then 0x8F1BBCDC
  else 0xCA62C1D6

/-- Five 32-bit words: a chaining value `(H0, .., H4)` or the round variables `(a, b, c, d, e)` (R184). -/
structure Chain where
  a : Word
  b : Word
  c : Word
  d : Word
  e : Word
  deriving DecidableEq, Repr

/-- Round `t` on the round variables with schedule word `w` (R184). -/
def shaRound (t : Nat) (w : Word) (x : Chain) : Chain where
  a := x.a.rotateLeft 5 + roundFun t x.b x.c x.d + x.e + roundConst t + w
  b := x.a
  c := x.b.rotateLeft 30
  d := x.c
  e := x.d

/-- The rounds from `t` on, one for each schedule word (R184). -/
def shaRounds : Nat → List Word → Chain → Chain
  | _, [], x => x
  | t, w :: ws, x => shaRounds (t + 1) ws (shaRound t w x)

/-- `compress(H, B)` (R184). -/
def compress (h : Chain) (block : List Byte) : Chain :=
  let x := shaRounds 0 (schedule block) h
  { a := h.a + x.a, b := h.b + x.b, c := h.c + x.c, d := h.d + x.d, e := h.e + x.e }

/-- The initial chaining value (R185). -/
def shaInit : Chain where
  a := 0x67452301
  b := 0xEFCDAB89
  c := 0x98BADCFE
  d := 0x10325476
  e := 0xC3D2E1F0

/-- `compress` over the first `n` blocks of a padded message (R186). -/
def shaBlocks : Nat → List Byte → Chain → Chain
  | 0, _, h => h
  | n + 1, p, h => shaBlocks n (p.drop 64) (compress h (p.take 64))

/-- The five words big-endian, 20 bytes (R186). -/
def Chain.bytes (h : Chain) : List Byte :=
  beBytes 4 h.a.toNat ++ beBytes 4 h.b.toNat ++ beBytes 4 h.c.toNat ++ beBytes 4 h.d.toNat ++ beBytes 4 h.e.toNat

/-- `sha1(M)` (R186). -/
def sha1 (msg : List Byte) : List Byte :=
  let p := shaPad msg
  (shaBlocks (p.length / 64) p shaInit).bytes

/-- `hmac_key(K)` (R187): a key longer than a block is hashed first, then zeros fill the block. -/
def hmacKey (key : List Byte) : List Byte :=
  let k1 := if key.length > Config.blockBytes then sha1 key else key
  k1 ++ List.replicate (Config.blockBytes - k1.length) 0

/-- `hmac_sha1(K, msg)` (R188). -/
def hmacSha1 (key msg : List Byte) : List Byte :=
  let k0 := hmacKey key
  sha1 (k0.map (· ^^^ 0x5C) ++ sha1 (k0.map (· ^^^ 0x36) ++ msg))

/-- What the core hashes: always `be_8` of the counter (R190). -/
def counterMessage (c : Dword) : List Byte := beBytes 8 c.toNat

/-- The digest committed to `DIGEST[0 .. 20)` (R192). -/
def State.putDigest (s : State) (d : List Byte) : State := s.fillBuf .digest d

/-- HMAC (R192): steps 1 and 2 of the HOTP generator. -/
def execHmac (s : State) : Host.Outcome State Fault Refusal :=
  validated [.keyLen] (fun s => s.putDigest (hmacSha1 s.key (counterMessage s.counter))) s

end Sys2Proof.Machine
end

