-- ==== Sys2Proof/Machine/Reduce.lean ====
section
/-! DEFINITION. The digest half of the counter-to-code reducer, REDUCE and HOTP (43_reduce_hotp.md). -/

namespace Sys2Proof.Machine

/-- What reduction answers (R221). -/
structure Reduction where
  offset : Nat
  binary : Nat
  code : Nat
  chars : List Byte
  deriving DecidableEq, Repr

/-- The dynamic-truncation offset `d[19] & 0x0F` (R221). -/
def truncOffset (d : List Byte) : Nat := (d.getD 19 0 &&& 0x0F).toNat

/-- `bin` of R221: four digest bytes from the offset on, the top bit of the first masked, combined big-endian. -/
def truncBinary (d : List Byte) (off : Nat) : Nat :=
  (d.getD off 0 &&& 0x7F).toNat * 2 ^ 24 + (d.getD (off + 1) 0).toNat * 2 ^ 16 + (d.getD (off + 2) 0).toNat * 2 ^ 8
    + (d.getD (off + 3) 0).toNat

/-- `chars` of R221: `n` ASCII digits of the code, most significant first, then 0x00 up to 12 bytes. -/
def codeChars (code n : Nat) : List Byte :=
  (List.range Config.codeCharsBytes).map fun i =>
    if i < n then BitVec.ofNat 8 (0x30 + code / 10 ^ (n - 1 - i) % 10) else 0

/-- `reduce(d, N)` (R221). -/
def reduceDigest (d : List Byte) (n : Nat) : Reduction :=
  let off := truncOffset d
  let bin := truncBinary d off
  let code := bin % 10 ^ n
  { offset := off, binary := bin, code := code, chars := codeChars code n }

/-- A reduction committed to `OFFSET`, `BINARY`, `CODE` and `CODE_CHARS` (R222). -/
def State.putReduction (s : State) (r : Reduction) : State :=
  { s with
    mem := (s.fillBuf .codeChars r.chars).mem
    offset := BitVec.ofNat 4 r.offset
    binary := BitVec.ofNat 31 r.binary
    code := BitVec.ofNat 32 r.code }

/-- REDUCE (R222): steps 3 to 5 of the HOTP generator on the digest already in `DIGEST`. -/
def execReduce (s : State) : Host.Outcome State Fault Refusal :=
  validated [.digits] (fun s => s.putReduction (reduceDigest s.digest s.digits.toNat)) s

/-- The results of HOTP, committed at once (R223). -/
def State.putHotp (s : State) : State :=
  let d := hmacSha1 s.key (counterMessage s.counter)
  (s.putDigest d).putReduction (reduceDigest d s.digits.toNat)

/-- HOTP (R223): the MAC of the counter under the key, then its reduction. -/
def execHotp (s : State) : Host.Outcome State Fault Refusal :=
  validated [.keyLen, .digits] State.putHotp s

end Sys2Proof.Machine
end

