-- ==== Sys2Proof/Machine/Totp.lean ====
section
/-! DEFINITION. The time half of the counter-to-code reducer, TCOUNT and TOTP (44_totp.md). -/

namespace Sys2Proof.Machine

/-- `ctr` of `window(ts, s)` (R240): `ts div s`. -/
def windowCounter (ts : Dword) (step : Word) : Dword := BitVec.ofNat 64 (ts.toNat / step.toNat)

/-- `rem` of `window(ts, s)` (R240): `s - (ts mod s)`. -/
def windowRemain (ts : Dword) (step : Word) : Word := BitVec.ofNat 32 (step.toNat - ts.toNat % step.toNat)

/-- The window of a timestamp committed to `COUNTER` and `SEC_REMAIN`, and to `TIMESTAMP` where the wall clock was
taken (R241). -/
def State.putWindow (s : State) (explicitTs : Bool) : State :=
  let ts := s.timeOperand explicitTs
  let s := { s.setCounter (windowCounter ts s.timeStep) with secRemain := windowRemain ts s.timeStep }
  if explicitTs then s else s.setTimestamp ts

/-- TCOUNT (R241): the counter and the seconds remaining of a timestamp. -/
def execTcount (explicitTs : Bool) (s : State) : Host.Outcome State Fault Refusal :=
  validated [.timeStep] (fun s => s.putWindow explicitTs) s

/-- The results of TOTP, committed at once (R242, R243): each stage works on the previous stage's output. -/
def State.putTotp (s : State) (explicitTs : Bool) : State :=
  let key := b32decode s.secret
  let ctr := windowCounter (s.timeOperand explicitTs) s.timeStep
  let d := hmacSha1 key.out (counterMessage ctr)
  (((s.putDecoding key).putWindow explicitTs).putDigest d).putReduction (reduceDigest d s.digits.toNat)

/-- TOTP (R242): the code of the window a timestamp lies in, under the decoded secret. `KEY_LEN` is not checked
(R144). -/
def execTotp (explicitTs : Bool) (s : State) : Host.Outcome State Fault Refusal :=
  validated [.inLen, .digits, .timeStep] (fun s => s.putTotp explicitTs) s

end Sys2Proof.Machine
end

