-- ==== Sys2Proof/Machine/Dispatch.lean ====
section
/-! DEFINITION. The completion step of each command (40_command_engine.md R145, R146): one arm per row of
spec/opcode_table.json. -/

namespace Sys2Proof.Machine

def exec (i : Instr) (s : State) : Host.Outcome State Fault Refusal :=
  match i with
  | .nop => Sys2Proof.Machine.execNop s
  | .decode => Sys2Proof.Machine.execDecode s
  | .hmac => Sys2Proof.Machine.execHmac s
  | .reduce => Sys2Proof.Machine.execReduce s
  | .hotp => Sys2Proof.Machine.execHotp s
  | .tcount explicitTs => Sys2Proof.Machine.execTcount explicitTs s
  | .totp explicitTs => Sys2Proof.Machine.execTotp explicitTs s
  | .clear => Sys2Proof.Machine.execClear s

end Sys2Proof.Machine
end

