-- ==== Sys2Proof/Machine/Engine.lean ====
section
/-! DEFINITION. The engine's completion step (40_command_engine.md R146), the reset event (70_reset_and_hazards.md R300,
R301), and one step of the block under one input (R140): which agent moves is the input's word. -/

namespace Sys2Proof.Machine

/-- `complete()` of R146. While the phase is `Idle` the engine has no step (R140): nothing changes. -/
def engineStep (s : State) : Host.Outcome State Fault Refusal :=
  match s.phase with
  | .idle => .next s
  | .running _ w =>
    match decodeCmd w with
    | .legal i => exec i s
    | .illegal _ => .next (s.raiseCmdError .illegalCmd)

/-- The response the bus shows after a step under an asserted `RST` (R301, U10): none, or an undefined one where a
transaction was met. -/
def Input.resetResponse (inp : Input) : Option Response :=
  match inp.event with
  | .host _ => some (.undefinedByReset inp.freeData)
  | .quiet | .engine => none

/-- `RST` is asserted (R300, R301): every piece of state takes its reset value, a running command is abandoned, no
transaction is served. `TS_SAMPLE` is unspecified (R60): it takes the input's draw. -/
def State.applyReset (s : State) (inp : Input) : State :=
  { State.reset with
    tsSample := inp.freeSample
    wallclock := s.wallclock
    rst := s.rst
    resp := inp.resetResponse
    inputs := s.inputs }

/-- The input pins take the input's levels (R63). -/
def State.drive (s : State) (inp : Input) : State :=
  { s with wallclock := inp.wallclock, rst := inp.rst }

/-- One step of the block under one input (R140). -/
def react (inp : Input) (s : State) : Host.Outcome State Fault Refusal :=
  if inp.rst then .next ((s.drive inp).applyReset inp)
  else match inp.event with
    | .quiet => .next (s.drive inp)
    | .engine => engineStep (s.drive inp)
    | .host t => hostStep t inp.freeData (s.drive inp)

/-- What a step sees when no input is listed: the pins keep their levels, the host is silent and the engine takes its
turn (R140: a running command completes; R151: a run ends with the phase `Idle`). Log entry 2. -/
def State.quietInput (s : State) : Input where
  wallclock := s.wallclock
  rst := s.rst
  freeData := 0
  freeSample := s.tsSample
  event := .engine

/-- The input the next step takes. -/
def State.nextInput (s : State) : Input := s.inputs.headD s.quietInput

/-- The state with its next input taken. -/
def State.dropInput (s : State) : State := { s with inputs := s.inputs.tail }

/-- The state with `CMD` written by the host while idle (R143), the reset pin released and the engine's turn next, so
that the next step is the completion step of that command. Log entry 12. -/
def State.placeCommand (s : State) (w : Word) : State :=
  let s := { s.accept w with rst := false }
  match s.inputs with
  | [] => s
  | l => { s with inputs := s.quietInput :: l }

end Sys2Proof.Machine
end

