-- ==== Sys2Proof/Machine/Step.lean ====
section
/-! DEFINITION. The step of the machine: the next input of State's list, or the quiet one, moves the block once
(40_command_engine.md R140). -/

namespace Sys2Proof.Machine

/-- One step. -/
def step (s : State) : Host.Outcome State Fault Refusal :=
  react s.nextInput s.dropInput

/-- `s` with the command word whose bits are `w` accepted, so that the next step completes it. Log entry 12. -/
def State.withFetchWord (s : State) (nbits w : Nat) : State :=
  s.placeCommand (tableWord nbits w)

end Sys2Proof.Machine
end

