-- ==== Sys2Proof/Machine/Program.lean ====
section
/-! DEFINITION. How a host program is written down (30_encoding.md R118 to R120): transaction records and the expansions
of the pseudo-instructions. Notation only; the block has no assembler (D29). -/

namespace Sys2Proof.Machine

/-- The 45-bit transaction record (R118): `W` at [44], `ADDR` at [43:32], `DATA` at [31:0], 0 for a read. -/
def HostTxn.record : HostTxn → BitVec 45
  | .read off _ => (0 : BitVec 1) ++ off ++ (0 : Word)
  | .write off _ d => (1 : BitVec 1) ++ off ++ d

/-- The transaction a record stands for (R118); its width is 32 bits, the only one (R85). -/
def HostTxn.ofRecord (r : BitVec 45) : HostTxn :=
  if r.getLsbD 44 then .write (r.extractLsb' 32 12) 4 (r.extractLsb' 0 32) else .read (r.extractLsb' 32 12) 4

/-- `RD <off>` (R119). -/
def rd (off : BitVec 12) : HostTxn := .read off 4

/-- `WR <off>, <value>` (R119). -/
def wr (off : BitVec 12) (v : Word) : HostTxn := .write off 4 v

/-- `CMD <mnemonic>` (R120). -/
def wrCmd (i : Instr) : HostTxn := wr 0x008 (encode i)

/-- `ACK` (R120): clears `DONE`, `ERR` with `ERRCODE`, and `WIGN`. -/
def ack : HostTxn := wr 0x00C 0x0000000E

/-- One poll of `WAIT` (R120). -/
def poll : HostTxn := rd 0x00C

/-- `WR64 <X>_LO, <v>` (R120). -/
def wr64 (lo : BitVec 12) (v : Dword) : List HostTxn :=
  [wr lo (v.extractLsb' 0 32), wr (lo + 4) (v.extractLsb' 32 32)]

/-- `WRBYTES <BUF>, <b0> <b1> ...` (R120): bytes past the end are 0x00. -/
def wrBytes (b : Buf) (s : List Byte) : List HostTxn :=
  (List.range ((s.length + 3) / 4)).map fun j =>
    wr (BitVec.ofNat 12 (b.base + 4 * j))
      (s.getD (4 * j + 3) 0 ++ s.getD (4 * j + 2) 0 ++ s.getD (4 * j + 1) 0 ++ s.getD (4 * j) 0)

/-- The ASCII codes of a string (R15). DESIGN CHOICE: a character beyond ASCII, for which the spec gives no byte, stands
for its code point cut to 8 bits. Log entry 23. -/
def ascii (s : String) : List Byte := s.toList.map fun c => BitVec.ofNat 8 c.toNat

/-- `WRSTR <BUF>, "<s>"` (R120). -/
def wrStr (b : Buf) (s : String) : List HostTxn := wrBytes b (ascii s)

end Sys2Proof.Machine
end

