-- ==== Sys2Proof/Safety.lean ====
section
/-! DEFINITION. The terms claims use: the invariant of the block, what counts as a safe input and as the end of a run
(40_command_engine.md R151), frames of a command, and agreement on what a command reads (R141, R150). -/

namespace Sys2Proof.Machine

/-- What holds of every state a run reaches: the relations the spec states between pieces of state. -/
structure State.Inv (s : State) : Prop where
  /-- the byte store is in canonical form -/
  memWf : Memory.wf s.mem
  /-- every listed byte belongs to a buffer (R31) -/
  memMapped : ∀ c ∈ s.mem, ∃ b : Buf, b.holds c.1 = true
  /-- `BUSY = 1` exactly when the phase is `Running` (R37) -/
  busyRunning : s.status.busy = true ↔ s.phase ≠ .idle
  /-- `Running(op, word)` holds the opcode field and the word `CMD` holds (R59, R143) -/
  runningCmd : ∀ op w, s.phase = .running op w → op = opField w ∧ w = s.cmd
  /-- `DONE` and `BUSY` are never both 1 (R38) -/
  notBusyDone : ¬ (s.status.busy = true ∧ s.status.done = true)
  /-- `ERR = 0` exactly when `ERRCODE = 0` (R39) -/
  errIffCode : s.status.err = false ↔ s.status.errCode = 0
  /-- `ERR` stays 0 while a command runs (R143, R148) -/
  busyNoErr : s.status.busy = true → s.status.err = false
  /-- error codes 6 to 15 are never produced (R271) -/
  codeRange : s.status.errCode.toNat ≤ 5
  /-- `DEC_VALID + DEC_DROPPED` is the length of a secret, at most 256 (R51, R52) -/
  decCount : s.decValid.toNat + s.decDropped.toNat ≤ Config.inMax
  /-- `DEC_TAIL` is `(5 * DEC_VALID) mod 8` (R162) -/
  decTail : s.decTail.toNat = 5 * s.decValid.toNat % 8
  /-- `CODE` is a remainder of `BINARY`, so bit 31 is always 0 (R50, R225) -/
  codeLe : s.code.toNat ≤ s.binary.toNat
  /-- no command runs while `RST` is asserted (R301) -/
  rstIdle : s.rst = true → s.phase = .idle

/-- An input under which no step faults (R276): its transaction, if any, gets no bus error. -/
def Input.safe (inp : Input) : Bool :=
  match inp.event with
  | .host t => t.wellFormed
  | .quiet | .engine => true

/-- The end of a run (R151): no transaction is left and the phase is `Idle`. -/
def State.ended (s : State) : Prop := s.inputs = [] ∧ s.phase = .idle

/-- Every byte outside the named buffers reads in `t` as in `s`. -/
def sameBytesOutside (bufs : List Buf) (s t : State) : Prop :=
  ∀ a, (∀ b ∈ bufs, b.holds a = false) → Memory.read t.mem a = Memory.read s.mem a

/-- `STATUS` as the success of a command leaves it (R148). -/
def Status.afterSuccess (t : Status) : Status := { t with busy := false, done := true }

/-- `STATUS` as the failure of a command leaves it (R147). -/
def Status.afterError (t : Status) (code : BitVec 4) : Status :=
  { t with busy := false, done := true, err := true, errCode := code }

/-- The error code of the first failing check of a command past the decoder, none if all pass: the table of R144, rows
2 to 5, read row by row. -/
def errorOf (i : Instr) (s : State) : Option (BitVec 4) :=
  let readsSecret : Bool := match i with
    | .decode | .totp _ => true
    | .nop | .hmac | .reduce | .hotp | .tcount _ | .clear => false
  let readsKey : Bool := match i with
    | .hmac | .hotp => true
    | .nop | .decode | .reduce | .tcount _ | .totp _ | .clear => false
  let readsDigits : Bool := match i with
    | .reduce | .hotp | .totp _ => true
    | .nop | .decode | .hmac | .tcount _ | .clear => false
  let readsStep : Bool := match i with
    | .tcount _ | .totp _ => true
    | .nop | .decode | .hmac | .reduce | .hotp | .clear => false
  if readsSecret ∧ 256 < s.inLen.toNat then some 2
  else if readsKey ∧ 160 < s.keyLen.toNat then some 3
  else if readsDigits ∧ (s.digits.toNat = 0 ∨ 10 < s.digits.toNat) then some 4
  else if readsStep ∧ s.timeStep.toNat = 0 then some 5
  else none

/-- How many bytes of a buffer a command reads (R141): `IN_BUF[0 .. IN_LEN)`, `KEY_BUF[0 .. KEY_LEN)`, all of the
others. -/
def State.readLength (s : State) : Buf → Nat
  | .inBuf => s.inLen.toNat
  | .keyBuf => s.keyLen.toNat
  | .digest => Config.digestBytes
  | .codeChars => Config.codeCharsBytes

/-- Two states agree on what a command reads (R141): its registers, the bytes of its buffers it reads, and `TS_SAMPLE`
where it takes the wall clock. -/
def agreeOnReads (i : Instr) (s t : State) : Prop :=
  (∀ r, Place.reg r ∈ Instr.readSet i → s.readReg r = t.readReg r) ∧
  (∀ b, Place.buf b ∈ Instr.readSet i → ∀ k < s.readLength b, s.byteOf b k = t.byteOf b k) ∧
  ((i = .tcount false ∨ i = .totp false) → s.tsSample = t.tsSample)

/-- Two states agree on what a command writes (R141). -/
def agreeOnWrites (i : Instr) (s t : State) : Prop :=
  (∀ r, Place.reg r ∈ Instr.writeSet i → s.readReg r = t.readReg r) ∧
  (∀ b, Place.buf b ∈ Instr.writeSet i → ∀ k < b.size, s.byteOf b k = t.byteOf b k)

/-- The secret as bytes of `IN_BUF` (R115). -/
def State.secretBytes (s : State) : List Byte := (List.range s.inLen.toNat).map fun k => s.byteOf .inBuf k

/-- The key as bytes of `KEY_BUF` (R115). -/
def State.keyBytes (s : State) : List Byte := (List.range s.keyLen.toNat).map fun k => s.byteOf .keyBuf k

/-- `t` holds the decoding of `secret` (R162 to R164), each key byte by the rule's own formula
`out[j] = (acc div 2^(5m - 8j - 8)) mod 256`, and 0x00 past the last one. -/
def holdsDecoding (secret : List Byte) (t : State) : Prop :=
  let v := indices secret
  let m := v.length
  (∀ j < 160, t.byteOf .keyBuf j =
    if j < 5 * m / 8 then BitVec.ofNat 8 (streamOf v / 2 ^ (5 * m - 8 * j - 8)) else 0) ∧
  t.keyLen.toNat = 5 * m / 8 ∧ t.decValid.toNat = m ∧ t.decDropped.toNat = secret.length - m ∧
  t.decTail.toNat = 5 * m % 8

/-- The eight message bytes of a counter, `COUNTER[63:56]` first (R190). -/
def messageBytes (c : Dword) : List Byte :=
  [c.extractLsb' 56 8, c.extractLsb' 48 8, c.extractLsb' 40 8, c.extractLsb' 32 8, c.extractLsb' 24 8,
    c.extractLsb' 16 8, c.extractLsb' 8 8, c.extractLsb' 0 8]

/-- `t` holds in `DIGEST` the HMAC-SHA1 of the counter `c` under `key` (R192). -/
def holdsMac (key : List Byte) (c : Dword) (t : State) : Prop :=
  ∀ k < 20, t.byteOf .digest k = (hmacSha1 key (messageBytes c)).getD k 0

/-- `t` holds the reduction of its own `DIGEST` to `n` digits, by the formulas of R221 on numbers. -/
def holdsReduction (n : Nat) (t : State) : Prop :=
  let d := fun k => (t.byteOf .digest k).toNat
  let off := d 19 % 16
  let bin := d off % 128 * 2 ^ 24 + d (off + 1) * 2 ^ 16 + d (off + 2) * 2 ^ 8 + d (off + 3)
  let code := bin % 10 ^ n
  t.offset.toNat = off ∧ t.binary.toNat = bin ∧ t.code.toNat = code ∧
  ∀ k < 12, t.byteOf .codeChars k = if k < n then BitVec.ofNat 8 (0x30 + code / 10 ^ (n - 1 - k) % 10) else 0

/-- `t` holds the window of the timestamp `ts` for the time step `step` (R240). -/
def holdsWindow (ts step : Nat) (t : State) : Prop :=
  t.counter.toNat = ts / step ∧ t.secRemain.toNat = step - ts % step

/-- The offsets whose writes a busy engine ignores (R307): `CMD`, the eight operand registers, `IN_BUF`, `KEY_BUF`. -/
def protectedOffset (off : BitVec 12) : Prop :=
  off.toNat % 4 = 0 ∧
    (off.toNat = 0x008 ∨ (0x010 ≤ off.toNat ∧ off.toNat < 0x030) ∨ (0x100 ≤ off.toNat ∧ off.toNat < 0x2A0))

/-- The malformed transactions of R276: (a) a reserved offset, (b) a misaligned one, (c) a width other than 32 bits. -/
def malformed (off : BitVec 12) (bytes : Nat) : Prop :=
  ((0x04C ≤ off.toNat ∧ off.toNat < 0x050) ∨ (0x070 ≤ off.toNat ∧ off.toNat < 0x100) ∨ 0x2A0 ≤ off.toNat) ∨
    off.toNat % 4 ≠ 0 ∨ bytes ≠ 4

/-- A state holds the reset values of R68, whatever `TS_SAMPLE` (unspecified), the pins and the bus port hold. -/
def State.atReset (s : State) : Prop :=
  s = { State.reset with
        tsSample := s.tsSample, wallclock := s.wallclock, rst := s.rst, resp := s.resp, inputs := s.inputs }

/-- The RFC 4648 Base32 character of an index (R160): `A` to `Z`, then `2` to `7`. -/
def b32char (x : Nat) : Byte := if x < 26 then BitVec.ofNat 8 (0x41 + x) else BitVec.ofNat 8 (0x32 + (x - 26))

/-- The 5-bit digits of `v`, `n` of them, most significant first. -/
def b32digits : Nat → Nat → List Nat
  | 0, _ => []
  | n + 1, v => v / 32 ^ n % 32 :: b32digits n v

/-- The standard encoder of R170: `ceil(8L/5)` characters with zero fill bits, then `=` up to a multiple of 8. The block
has no such command (R6 (e)); this is the oracle of the round trip. -/
def b32encode (bytes : List Byte) : List Byte :=
  let n := (8 * bytes.length + 4) / 5
  (b32digits n (fromBe bytes * 2 ^ (5 * n - 8 * bytes.length))).map b32char
    ++ List.replicate ((8 - n % 8) % 8) 0x3D

end Sys2Proof.Machine
end

