-- ==== Sys2Proof/Certificates/Slice0/Obligations.lean ====
section
/-! DEFINITION. The statements for the provers, from the spec's numbered rules. No statement speaks of a program. -/

open Sys2Proof Sys2Proof.Machine

/-! ### Encoding (30_encoding.md) -/

/-- A few words of the opcode map, legal and illegal, decode as R111 to R114 say. -/
def Obligations.TableWordsDecodeToTheirCommands : Prop :=
  decodeCmd 0x00000000 = .legal .nop ∧ decodeCmd 0x00000001 = .legal .decode ∧ decodeCmd 0x00000002 = .legal .hmac ∧
  decodeCmd 0x00000003 = .legal .reduce ∧ decodeCmd 0x00000004 = .legal .hotp ∧
  decodeCmd 0x00000105 = .legal (.tcount true) ∧ decodeCmd 0x00000006 = .legal (.totp false) ∧
  decodeCmd 0x00000007 = .legal .clear ∧ decodeCmd 0x00000008 = .illegal .reservedOpcode ∧
  decodeCmd 0x00000104 = .illegal .explicitTsNotAllowed ∧ decodeCmd 0x80000006 = .illegal .reservedBits

/-- Decoding and encoding are inverse on all words: a word decodes to a command exactly when it is that command's
word, so no bit of an encoding is dropped. -/
def Obligations.DecodeAndEncodeAgree : Prop :=
  ∀ (w : Word) (i : Instr), decodeCmd w = .legal i ↔ encode i = w

/-- R114: the ten words that decode to a command, with the command of each; every other word is illegal. -/
def Obligations.ExactlyTenWordsDecode : Prop :=
  (decodeCmd 0x00000000 = .legal .nop ∧ decodeCmd 0x00000001 = .legal .decode ∧ decodeCmd 0x00000002 = .legal .hmac ∧
    decodeCmd 0x00000003 = .legal .reduce ∧ decodeCmd 0x00000004 = .legal .hotp ∧
    decodeCmd 0x00000005 = .legal (.tcount false) ∧ decodeCmd 0x00000006 = .legal (.totp false) ∧
    decodeCmd 0x00000007 = .legal .clear ∧ decodeCmd 0x00000105 = .legal (.tcount true) ∧
    decodeCmd 0x00000106 = .legal (.totp true)) ∧
  ∀ w : Word, w ∉ [(0x0 : Word), 0x1, 0x2, 0x3, 0x4, 0x5, 0x6, 0x7, 0x105, 0x106] → ∃ why, decodeCmd w = .illegal why

/-- The legal words of R113, written from that rule's two cases, are exactly the words the decoder of R114 accepts. -/
def Obligations.LegalWordsAreTheDecodableOnes : Prop :=
  ∀ w : Word, legalWord w = true ↔ ∃ i, decodeCmd w = .legal i

/-- R116: a word with a reserved opcode, a reserved bit set, or `EXPLICIT_TS` with another opcode than TCOUNT and TOTP
is accepted when written, and its command fails with code 1 and changes nothing else. -/
def Obligations.IllegalWordFailsWithCodeOne : Prop :=
  ∀ (s : State) (op : BitVec 4) (w : Word),
    (8 ≤ (w.extractLsb' 0 4).toNat ∨ w.extractLsb' 4 4 ≠ 0 ∨ w.extractLsb' 9 23 ≠ 0 ∨
      (w.getLsbD 8 = true ∧ w.extractLsb' 0 4 ≠ 5 ∧ w.extractLsb' 0 4 ≠ 6)) →
    s.phase = .running op w →
    engineStep s = .next { s with status := s.status.afterError 1, phase := .idle }

/-! ### The step and the engine (40_command_engine.md) -/

/-- When the engine moves and the running word decodes to a command, the step is `exec` of that command (R140, R146). That
a step with no input listed is the engine's turn, on the state itself, is the model's choice (log entry 2), and so is the
form of a listed input, which the step takes with the pins at its levels (log entry 1): the spec leaves open when the
engine moves. -/
def Obligations.StepRunsTheDecodedCommand : Prop :=
  (∀ (s : State) (op : BitVec 4) (w : Word) (i : Instr), s.inputs = [] → s.rst = false → s.phase = .running op w →
    decodeCmd w = .legal i → step s = exec i s) ∧
  (∀ (s : State) (inp : Input) (rest : List Input) (op : BitVec 4) (w : Word) (i : Instr), s.inputs = inp :: rest →
    inp.rst = false → inp.event = .engine → s.phase = .running op w → decodeCmd w = .legal i →
    step s = exec i { s with inputs := rest, wallclock := inp.wallclock, rst := false })

/-- A word placed by `withFetchWord` runs as the very next step, on the state its acceptance leaves. That placing a word
stands for its accepted write with the engine next is the model's choice (log entry 12). -/
def Obligations.PlacedWordRunsNext : Prop :=
  ∀ (s : State) (w : Nat) (i : Instr), decodeTableWord 32 w = some i →
    step (s.withFetchWord 32 w) = exec i
      { s with
        cmd := BitVec.ofNat 32 w
        tsSample := s.wallclock
        status := { busy := true, done := false, err := false, wign := s.status.wign, errCode := 0 }
        phase := .running ((BitVec.ofNat 32 w).extractLsb' 0 4) (BitVec.ofNat 32 w)
        rst := false }

/-- R143: acceptance of a word written to `CMD` while the phase is `Idle`, legal or not, and the fate of such a write
while `Running`. -/
def Obligations.CommandWriteIsAccepted : Prop :=
  ∀ (s : State) (w free : Word), s.Inv →
    (s.phase = .idle → ∃ t, s.respond (.write 0x008 4 w) free = (.okay, t) ∧ t.irq = false ∧
      t = { s with
        cmd := w
        tsSample := s.wallclock
        status := { busy := true, done := false, err := false, wign := s.status.wign, errCode := 0 }
        phase := .running (w.extractLsb' 0 4) w }) ∧
    (∀ op v, s.phase = .running op v →
      s.respond (.write 0x008 4 w) free = (.okay, { s with status := { s.status with wign := true } }))

/-- R144 and R147: the first check that fails gives the error code, the command ends with it, nothing else changes, and
`IRQ` rises if it is enabled. Check 1 is made on the word, checks 2 to 5 on the command. -/
def Obligations.ChecksRunInOrder : Prop :=
  (∀ (s : State) (op : BitVec 4) (w : Word) (why : IllegalWord), s.phase = .running op w → decodeCmd w = .illegal why →
    ∃ t, engineStep s = .next t ∧ t = { s with status := s.status.afterError 1, phase := .idle } ∧ t.irq = s.ie) ∧
  (∀ (s : State) (i : Instr) (c : BitVec 4), errorOf i s = some c →
    ∃ t, exec i s = .next t ∧ t = { s with status := s.status.afterError c, phase := .idle } ∧ t.irq = s.ie) ∧
  (∀ (s : State) (i : Instr), errorOf i s = none →
    ∃ t, exec i s = .next t ∧ t.status.err = s.status.err ∧ t.status.errCode = s.status.errCode)

/-- A command whose checks pass completes: `BUSY` 0, `DONE` 1, `ERR`, `ERRCODE` and `WIGN` as before, phase `Idle`, and
`IRQ` rises if it is enabled (R148). -/
def Obligations.PassingCommandCompletes : Prop :=
  ∀ (s : State) (i : Instr), errorOf i s = none →
    ∃ t, exec i s = .next t ∧ t.status = s.status.afterSuccess ∧ t.phase = .idle ∧ t.irq = s.ie

/-- The frame of every command (R141): it writes only its write set, `STATUS` and the phase. -/
def Obligations.CommandsWriteOnlyTheirWriteSet : Prop :=
  ∀ (i : Instr) (s t : State), exec i s = .next t →
    (∀ r, Place.reg r ∉ Instr.writeSet i → r ≠ .status → t.readReg r = s.readReg r) ∧
    (∀ a, (∀ b, Place.buf b ∈ Instr.writeSet i → b.holds a = false) → Memory.read t.mem a = Memory.read s.mem a) ∧
    t.tsSample = s.tsSample ∧ t.status.wign = s.status.wign ∧ t.wallclock = s.wallclock ∧ t.rst = s.rst ∧
    t.resp = s.resp ∧ t.inputs = s.inputs

/-- R150: the results of a command depend only on what it reads. Two states that agree on the read set, in one of which
the checks pass, pass them both and end with the same results. -/
def Obligations.ResultsDependOnlyOnTheReadSet : Prop :=
  ∀ (i : Instr) (s t s' t' : State), agreeOnReads i s t → errorOf i s = none → exec i s = .next s' →
    exec i t = .next t' → errorOf i t = none ∧ agreeOnWrites i s' t'

/-- What a running command reads does not change under the host's transactions (R142), so its operands may be read at
acceptance or at completion. -/
def Obligations.OperandsAreStableWhileRunning : Prop :=
  ∀ (s t : State) (i : Instr) (x : HostTxn) (free : Word), s.status.busy = true → s.runningInstr = some i →
    hostStep x free s = .next t →
    t.status.busy = true ∧ t.runningInstr = some i ∧ agreeOnReads i s t ∧ t.tsSample = s.tsSample

/-! ### The commands -/

/-- R260: NOP completes and changes nothing but `STATUS` and the phase; after an acceptance `STATUS` is `DONE` alone. -/
def Obligations.NopChangesNoData : Prop :=
  decodeCmd 0x00000000 = .legal .nop ∧
  ∀ s : State, ∃ t, exec .nop s = .next t ∧ t = { s with status := s.status.afterSuccess, phase := .idle } ∧
    (s.status.err = false → s.status.errCode = 0 → s.status.wign = false → t.readReg .status = 0x00000002)

/-- R164: DECODE writes the decoded key, zero filled, and its counts; with a secret longer than the buffer it fails with
`ERR_IN_LEN`. Everything else is unchanged. -/
def Obligations.DecodeWritesTheDecodedKey : Prop :=
  decodeCmd 0x00000001 = .legal .decode ∧
  ∀ s : State,
    (s.inLen.toNat ≤ 256 → ∃ t, exec .decode s = .next t ∧ holdsDecoding s.secretBytes t ∧
      sameBytesOutside [.keyBuf] s t ∧
      t = { s with
        mem := t.mem, keyLen := t.keyLen, decValid := t.decValid, decDropped := t.decDropped, decTail := t.decTail
        status := s.status.afterSuccess, phase := .idle }) ∧
    (256 < s.inLen.toNat → exec .decode s = .next { s with status := s.status.afterError 2, phase := .idle })

/-- R190 and R192: HMAC writes the MAC of the counter's eight big-endian bytes under the key; with a key longer than the
buffer it fails with `ERR_KEY_LEN`. Everything else is unchanged. -/
def Obligations.HmacWritesTheDigest : Prop :=
  decodeCmd 0x00000002 = .legal .hmac ∧
  ∀ s : State,
    (s.keyLen.toNat ≤ 160 → ∃ t, exec .hmac s = .next t ∧ holdsMac s.keyBytes s.counter t ∧
      sameBytesOutside [.digest] s t ∧ t = { s with mem := t.mem, status := s.status.afterSuccess, phase := .idle }) ∧
    (160 < s.keyLen.toNat → exec .hmac s = .next { s with status := s.status.afterError 3, phase := .idle })

/-- R221 and R222: REDUCE writes the truncation offset, the 31-bit value, the code and its characters; with an illegal
digit count it fails with `ERR_DIGITS`. Everything else is unchanged. -/
def Obligations.ReduceWritesTheCode : Prop :=
  decodeCmd 0x00000003 = .legal .reduce ∧
  ∀ s : State,
    (1 ≤ s.digits.toNat ∧ s.digits.toNat ≤ 10 → ∃ t, exec .reduce s = .next t ∧ holdsReduction s.digits.toNat t ∧
      sameBytesOutside [.codeChars] s t ∧
      t = { s with
        mem := t.mem, offset := t.offset, binary := t.binary, code := t.code
        status := s.status.afterSuccess, phase := .idle }) ∧
    (s.digits.toNat = 0 ∨ 10 < s.digits.toNat →
      exec .reduce s = .next { s with status := s.status.afterError 4, phase := .idle })

/-- R223: HOTP writes the MAC and its reduction at once; `ERR_KEY_LEN` comes before `ERR_DIGITS`, and on either nothing
is committed. -/
def Obligations.HotpWritesDigestAndCode : Prop :=
  decodeCmd 0x00000004 = .legal .hotp ∧
  ∀ s : State,
    (s.keyLen.toNat ≤ 160 → 1 ≤ s.digits.toNat ∧ s.digits.toNat ≤ 10 →
      ∃ t, exec .hotp s = .next t ∧ holdsMac s.keyBytes s.counter t ∧ holdsReduction s.digits.toNat t ∧
      sameBytesOutside [.digest, .codeChars] s t ∧
      t = { s with
        mem := t.mem, offset := t.offset, binary := t.binary, code := t.code
        status := s.status.afterSuccess, phase := .idle }) ∧
    (160 < s.keyLen.toNat → exec .hotp s = .next { s with status := s.status.afterError 3, phase := .idle }) ∧
    (s.keyLen.toNat ≤ 160 → s.digits.toNat = 0 ∨ 10 < s.digits.toNat →
      exec .hotp s = .next { s with status := s.status.afterError 4, phase := .idle })

/-- HOTP is exactly HMAC followed by REDUCE, committed at once (R223, corner cases). -/
def Obligations.HotpIsHmacThenReduce : Prop :=
  ∀ s t u : State, errorOf .hotp s = none → exec .hmac s = .next t → exec .reduce t = .next u → exec .hotp s = .next u

/-- R240 and R241: TCOUNT writes the counter and the seconds remaining of its timestamp, and exposes the sampled wall
clock; with a time step of 0 it fails with `ERR_TIME_STEP`. Everything else is unchanged. -/
def Obligations.TcountWritesTheWindow : Prop :=
  decodeCmd 0x00000005 = .legal (.tcount false) ∧ decodeCmd 0x00000105 = .legal (.tcount true) ∧
  ∀ (s : State) (x : Bool),
    (s.timeStep.toNat ≠ 0 → ∃ t, exec (.tcount x) s = .next t ∧
      holdsWindow (if x then s.timestamp.toNat else s.tsSample.toNat) s.timeStep.toNat t ∧
      t.timestamp = (if x then s.timestamp else s.tsSample) ∧
      t = { s with
        counterHi := t.counterHi, counterLo := t.counterLo, secRemain := t.secRemain
        timestampHi := t.timestampHi, timestampLo := t.timestampLo
        status := s.status.afterSuccess, phase := .idle }) ∧
    (s.timeStep.toNat = 0 → exec (.tcount x) s = .next { s with status := s.status.afterError 5, phase := .idle })

/-- R242: TOTP writes the decoded key, the window, the MAC of the window's counter under that key, and its reduction, at
once; `ERR_IN_LEN`, `ERR_DIGITS` and `ERR_TIME_STEP` in that order, and on any of them nothing is committed. -/
def Obligations.TotpWritesEveryStage : Prop :=
  decodeCmd 0x00000006 = .legal (.totp false) ∧ decodeCmd 0x00000106 = .legal (.totp true) ∧
  ∀ (s : State) (x : Bool),
    (s.inLen.toNat ≤ 256 → 1 ≤ s.digits.toNat ∧ s.digits.toNat ≤ 10 → s.timeStep.toNat ≠ 0 →
      ∃ t, exec (.totp x) s = .next t ∧ holdsDecoding s.secretBytes t ∧
      holdsWindow (if x then s.timestamp.toNat else s.tsSample.toNat) s.timeStep.toNat t ∧
      t.timestamp = (if x then s.timestamp else s.tsSample) ∧
      holdsMac t.keyBytes t.counter t ∧ holdsReduction s.digits.toNat t ∧
      sameBytesOutside [.keyBuf, .digest, .codeChars] s t ∧
      t = { s with
        mem := t.mem, keyLen := t.keyLen, decValid := t.decValid, decDropped := t.decDropped, decTail := t.decTail
        counterHi := t.counterHi, counterLo := t.counterLo, secRemain := t.secRemain
        timestampHi := t.timestampHi, timestampLo := t.timestampLo
        offset := t.offset, binary := t.binary, code := t.code
        status := s.status.afterSuccess, phase := .idle }) ∧
    (256 < s.inLen.toNat → exec (.totp x) s = .next { s with status := s.status.afterError 2, phase := .idle }) ∧
    (s.inLen.toNat ≤ 256 → s.digits.toNat = 0 ∨ 10 < s.digits.toNat →
      exec (.totp x) s = .next { s with status := s.status.afterError 4, phase := .idle }) ∧
    (s.inLen.toNat ≤ 256 → 1 ≤ s.digits.toNat ∧ s.digits.toNat ≤ 10 → s.timeStep.toNat = 0 →
      exec (.totp x) s = .next { s with status := s.status.afterError 5, phase := .idle })

/-- R243: the results of TOTP equal those of DECODE, TCOUNT, HMAC and REDUCE issued one after another on the same
operands. -/
def Obligations.TotpIsItsFourStages : Prop :=
  ∀ (x : Bool) (s t₁ t₂ t₃ t₄ : State), errorOf (.totp x) s = none → exec .decode s = .next t₁ →
    exec (.tcount x) t₁ = .next t₂ → exec .hmac t₂ = .next t₃ → exec .reduce t₃ = .next t₄ →
    exec (.totp x) s = .next t₄

/-- R261: CLEAR zeroes every buffer byte and every data register, and leaves `CTRL`, `DIGITS`, `TIME_STEP`, `CMD`,
`WIGN` and `TS_SAMPLE`. -/
def Obligations.ClearZeroesTheDataState : Prop :=
  decodeCmd 0x00000007 = .legal .clear ∧
  ∀ s : State, ∃ t, exec .clear s = .next t ∧ (∀ (b : Buf), ∀ k < b.size, t.byteOf b k = 0) ∧
    sameBytesOutside [.inBuf, .keyBuf, .digest, .codeChars] s t ∧
    t = { s with
      mem := t.mem, inLen := 0, keyLen := 0, timestampLo := 0, timestampHi := 0, counterLo := 0, counterHi := 0
      secRemain := 0, offset := 0, binary := 0, code := 0, decValid := 0, decDropped := 0, decTail := 0
      status := s.status.afterSuccess, phase := .idle }

/-- A wall-clock TCOUNT written to an idle block takes the level `WALLCLOCK` has at its acceptance, whatever happens to
the pin before the engine moves, and exposes it in `TIMESTAMP` (R143, R241, R310). -/
def Obligations.TcountTakesTheClockAtAcceptance : Prop :=
  ∀ (s : State) (a b : Input) (rest : List Input), s.Inv → s.phase = .idle → s.timeStep.toNat ≠ 0 →
    s.inputs = a :: b :: rest → a.rst = false → a.event = .host (.write 0x008 4 0x00000005) → b.rst = false →
    b.event = .engine →
    ∃ t, Sys2Proof.core.run 2 s = .next t ∧ t.timestamp = a.wallclock ∧
      holdsWindow a.wallclock.toNat s.timeStep.toNat t ∧ t.status.done = true ∧ t.status.err = false ∧ t.phase = .idle

/-! ### Base32 (41_base32_decode.md) -/

/-- The index table: the 32 characters of the alphabet have the indices 0 to 31 in order, ASCII letters count in either
case, 58 bytes have an index, and no byte from 0x80 on has one (R161, R169). -/
def Obligations.AlphabetIndexTable : Prop :=
  (∀ (c : Byte) (x : Nat), b32val c = some x ↔
    x < 32 ∧ (c = b32char x ∨ (x < 26 ∧ c = BitVec.ofNat 8 (0x61 + x)))) ∧
  ((List.range 256).filter fun n => (b32val (BitVec.ofNat 8 n)).isSome).length = 58 ∧
  ∀ c : Byte, 0x80 ≤ c.toNat → b32val c = none

/-- Bit slicing (R162): bit `k` of byte `j` of the output, most significant bit 0, is bit `(8j + k) mod 5`, again from
the most significant, of the 5-bit index number `(8j + k) div 5`. -/
def Obligations.BitSlicingReadsTheStream : Prop :=
  ∀ (s : List Byte) (j k : Nat), k < 8 → j < 5 * (indices s).length / 8 →
    ((b32decode s).out.getD j 0).getMsbD k =
      ((indices s).getD ((8 * j + k) / 5) 0).testBit (4 - (8 * j + k) % 5)

/-- Dropped characters do not change the decoded bytes, wherever they stand, and neither does the case of a letter; a
dropped character only counts in `DEC_DROPPED` (R165, R168). -/
def Obligations.DroppedCharactersDoNotMatter : Prop :=
  (∀ (p q : List Byte) (c : Byte), b32val c = none →
    b32decode (p ++ c :: q) = { b32decode (p ++ q) with ndropped := (b32decode (p ++ q)).ndropped + 1 }) ∧
  (∀ s : List Byte, b32decode (s.map upperAscii) = b32decode s)

/-- R166: after DECODE the key length is `(5 * DEC_VALID) div 8`, at most 160, so the key passes the check of a later
HMAC or HOTP; and `DEC_VALID + DEC_DROPPED = IN_LEN` (R52). -/
def Obligations.DecodedKeyAlwaysFits : Prop :=
  ∀ s t : State, s.inLen.toNat ≤ 256 → exec .decode s = .next t →
    t.keyLen.toNat = 5 * t.decValid.toNat / 8 ∧ t.keyLen.toNat ≤ 160 ∧
    t.decValid.toNat + t.decDropped.toNat = s.inLen.toNat ∧ errorOf .hmac t = none ∧ errorOf .hotp t ≠ some 3

/-- R170: DECODE of the standard Base32 encoding of `B` gives `B` back, with the stated tail. -/
def Obligations.Base32RoundTrip : Prop :=
  ∀ (s : State) (B : List Byte), B.length ≤ 160 → (b32encode B).length ≤ 256 → s.inLen.toNat = (b32encode B).length →
    (∀ k < (b32encode B).length, s.byteOf .inBuf k = (b32encode B).getD k 0) →
    ∃ t, exec .decode s = .next t ∧ t.keyLen.toNat = B.length ∧ (∀ k < B.length, t.byteOf .keyBuf k = B.getD k 0) ∧
      t.decTail.toNat = 5 * ((8 * B.length + 4) / 5) - 8 * B.length

/-! ### SHA-1 and HMAC (42_hmac_sha1.md) -/

/-- R181: the padded message, with the integer remainder of the rule, and its length. -/
def Obligations.PaddingFillsWholeBlocks : Prop :=
  ∀ M : List Byte,
    shaPad M = M ++ [0x80] ++ List.replicate ((55 - (M.length : Int)) % 64).toNat 0 ++ beBytes 8 (8 * M.length) ∧
    (shaPad M).length = 64 * ((M.length + 8) / 64 + 1)

/-- R182: the 80 words of the message schedule of a 64-byte block. -/
def Obligations.ScheduleFollowsItsRecurrence : Prop :=
  ∀ B : List Byte, B.length = 64 →
    (schedule B).length = 80 ∧
    (∀ t < 16, ((schedule B).getD t 0).toNat = fromBe ((B.drop (4 * t)).take 4)) ∧
    ∀ t, 16 ≤ t → t < 80 →
      (schedule B).getD t 0 =
        ((schedule B).getD (t - 3) 0 ^^^ (schedule B).getD (t - 8) 0 ^^^ (schedule B).getD (t - 14) 0 ^^^
          (schedule B).getD (t - 16) 0).rotateLeft 1

/-- R183 and R184: the compression of a block is 80 rounds with the table's functions and constants, added to the
chaining value. -/
def Obligations.CompressionRunsEightyRounds : Prop :=
  ∀ (h : Chain) (B : List Byte), B.length = 64 →
    ∃ x : Nat → Chain, x 0 = h ∧
      (∀ t < 80, x (t + 1) =
        { a := (x t).a.rotateLeft 5 +
            (if t < 20 then ((x t).b &&& (x t).c) ||| (~~~(x t).b &&& (x t).d)
              else if t < 40 then (x t).b ^^^ (x t).c ^^^ (x t).d
              else if t < 60 then ((x t).b &&& (x t).c) ||| ((x t).b &&& (x t).d) ||| ((x t).c &&& (x t).d)
              else (x t).b ^^^ (x t).c ^^^ (x t).d) +
            (x t).e +
            (if t < 20 then 0x5A827999 else if t < 40 then 0x6ED9EBA1 else if t < 60 then 0x8F1BBCDC else 0xCA62C1D6) +
            (schedule B).getD t 0
          b := (x t).a, c := (x t).b.rotateLeft 30, d := (x t).c, e := (x t).d }) ∧
      compress h B =
        { a := h.a + (x 80).a, b := h.b + (x 80).b, c := h.c + (x 80).c, d := h.d + (x 80).d, e := h.e + (x 80).e }

/-- R186: the hash folds the compression over the 64-byte blocks of the padded message from the initial value, and gives
the five words big-endian, 20 bytes. -/
def Obligations.HashFoldsItsBlocks : Prop :=
  ∀ M : List Byte,
    let h : Chain := (List.range ((shaPad M).length / 64)).foldl
      (fun h i => compress h (((shaPad M).drop (64 * i)).take 64))
      { a := 0x67452301, b := 0xEFCDAB89, c := 0x98BADCFE, d := 0x10325476, e := 0xC3D2E1F0 }
    sha1 M = beBytes 4 h.a.toNat ++ beBytes 4 h.b.toNat ++ beBytes 4 h.c.toNat ++ beBytes 4 h.d.toNat
      ++ beBytes 4 h.e.toNat ∧
    (sha1 M).length = 20

/-- R187 and R188: the key fills one block, hashed first if it is longer, and the MAC is two nested hashes over it. -/
def Obligations.HmacNestsTwoHashes : Prop :=
  ∀ K msg : List Byte, ∃ K0 : List Byte, K0.length = 64 ∧
    (∀ i < 64, K0.getD i 0 = if 64 < K.length then (sha1 K).getD i 0 else K.getD i 0) ∧
    hmacSha1 K msg = sha1 ((List.range 64).map (fun i => K0.getD i 0 ^^^ 0x5C) ++
      sha1 ((List.range 64).map (fun i => K0.getD i 0 ^^^ 0x36) ++ msg))

/-- R189, last sentence: two keys of at most 64 bytes that differ only by trailing zero bytes give HMAC the same
digest. -/
def Obligations.TrailingZeroKeyBytesDoNotMatter : Prop :=
  ∀ (s t s' t' : State), s.keyLen.toNat ≤ t.keyLen.toNat → t.keyLen.toNat ≤ 64 → s.counter = t.counter →
    (∀ k < s.keyLen.toNat, s.byteOf .keyBuf k = t.byteOf .keyBuf k) →
    (∀ k, s.keyLen.toNat ≤ k → k < t.keyLen.toNat → t.byteOf .keyBuf k = 0) →
    exec .hmac s = .next s' → exec .hmac t = .next t' → ∀ k < 20, s'.byteOf .digest k = t'.byteOf .digest k

/-! ### The reducer (43_reduce_hotp.md, 44_totp.md) -/

/-- R224: after a successful REDUCE, HOTP or TOTP the code is exactly `DIGITS` ASCII digits, then zero bytes, and read
as a decimal number the digits are `CODE`. -/
def Obligations.CodeIsFixedWidthDecimal : Prop :=
  ∀ (i : Instr) (s t : State), i = .reduce ∨ i = .hotp ∨ (∃ x, i = .totp x) → errorOf i s = none →
    exec i s = .next t →
    (∀ k < s.digits.toNat, 0x30 ≤ (t.byteOf .codeChars k).toNat ∧ (t.byteOf .codeChars k).toNat ≤ 0x39) ∧
    (∀ k, s.digits.toNat ≤ k → k < 12 → t.byteOf .codeChars k = 0) ∧
    ((List.range s.digits.toNat).foldl (fun acc k => acc * 10 + ((t.byteOf .codeChars k).toNat - 0x30)) 0) =
      t.code.toNat

/-- R225: the ranges of `OFFSET`, `BINARY` and `CODE` after a successful REDUCE, HOTP or TOTP. -/
def Obligations.ReductionStaysInRange : Prop :=
  ∀ (i : Instr) (s t : State), i = .reduce ∨ i = .hotp ∨ (∃ x, i = .totp x) → errorOf i s = none →
    exec i s = .next t →
    t.offset.toNat ≤ 15 ∧ t.binary.toNat ≤ 2147483647 ∧ t.code.toNat < 10 ^ s.digits.toNat ∧ t.code.toNat < 2 ^ 31 ∧
    (s.digits.toNat = 10 → t.code.toNat = t.binary.toNat ∧
      ∀ k < 10, (t.byteOf .codeChars k).toNat = 0x30 + t.binary.toNat / 10 ^ (9 - k) % 10)

/-- R244: two TOTP commands with the same secret, digits and time step, whose timestamps lie in one window, give the
same counter, digest, code and characters. -/
def Obligations.SameWindowSameCode : Prop :=
  ∀ (s t s' t' : State) (x y : Bool), s.secretBytes = t.secretBytes → s.digits = t.digits → s.timeStep = t.timeStep →
    (s.timeOperand x).toNat / s.timeStep.toNat = (t.timeOperand y).toNat / t.timeStep.toNat →
    errorOf (.totp x) s = none → exec (.totp x) s = .next s' → exec (.totp y) t = .next t' →
    s'.counter = t'.counter ∧ (∀ k < 20, s'.byteOf .digest k = t'.byteOf .digest k) ∧ s'.code = t'.code ∧
    ∀ k < 12, s'.byteOf .codeChars k = t'.byteOf .codeChars k

/-- R245: after every TCOUNT or TOTP that passes its checks `SEC_REMAIN` lies in `[1, TIME_STEP]`; from one second to the
next it falls by 1, and at a window boundary it goes from 1 to the time step. -/
def Obligations.SecondsRemainingCountDown : Prop :=
  (∀ (i : Instr) (x : Bool) (s s' : State), i = .tcount x ∨ i = .totp x → errorOf i s = none → exec i s = .next s' →
    1 ≤ s'.secRemain.toNat ∧ s'.secRemain.toNat ≤ s.timeStep.toNat) ∧
  (∀ (i j : Instr) (x y : Bool) (s t s' t' : State), i = .tcount x ∨ i = .totp x → j = .tcount y ∨ j = .totp y →
    errorOf i s = none → errorOf j t = none → exec i s = .next s' → exec j t = .next t' → s.timeStep = t.timeStep →
    (t.timeOperand y).toNat = (s.timeOperand x).toNat + 1 →
    if (t.timeOperand y).toNat % s.timeStep.toNat = 0
      then s'.secRemain.toNat = 1 ∧ t'.secRemain.toNat = s.timeStep.toNat
      else s'.secRemain.toNat = t'.secRemain.toNat + 1)

/-- R246: timestamps that do not decrease give counters that do not decrease. -/
def Obligations.CountersFollowTheirTimestamps : Prop :=
  ∀ (i j : Instr) (x y : Bool) (s t s' t' : State), i = .tcount x ∨ i = .totp x → j = .tcount y ∨ j = .totp y →
    errorOf i s = none → errorOf j t = none → exec i s = .next s' → exec j t = .next t' → s.timeStep = t.timeStep →
    (s.timeOperand x).toNat ≤ (t.timeOperand y).toNat → s'.counter.toNat ≤ t'.counter.toNat

/-! ### The bus (10_state.md, 20_memory.md, 70_reset_and_hazards.md) -/

/-- The window map of R31: the place of every offset the spec lists. -/
def Obligations.WindowMapIsTheSpecs : Prop :=
  [0x000, 0x004, 0x008, 0x00C, 0x010, 0x014, 0x018, 0x01C, 0x020, 0x024, 0x028, 0x02C, 0x030, 0x034, 0x038, 0x03C, 0x040,
      0x044, 0x048].map placeAt =
    ([.id, .ctrl, .cmd, .status, .inLen, .keyLen, .digits, .timeStep, .timestampLo, .timestampHi, .counterLo, .counterHi,
      .secRemain, .offset, .binary, .code, .decValid, .decDropped, .decTail] : List Reg).map (fun r => some (.reg r)) ∧
  (∀ off, off % 4 = 0 → 0x050 ≤ off → off ≤ 0x063 → placeAt off = some (.buf .digest)) ∧
  (∀ off, off % 4 = 0 → 0x064 ≤ off → off ≤ 0x06F → placeAt off = some (.buf .codeChars)) ∧
  (∀ off, off % 4 = 0 → 0x100 ≤ off → off ≤ 0x1FF → placeAt off = some (.buf .inBuf)) ∧
  (∀ off, off % 4 = 0 → 0x200 ≤ off → off ≤ 0x29F → placeAt off = some (.buf .keyBuf))

/-- R276, R84 and R85: a malformed transaction gets `BusError`, changes no state and is a fault of the host's step; a
well-formed one gets `Okay` and is no fault. -/
def Obligations.MalformedTransactionsFault : Prop :=
  ∀ (s : State) (off : BitVec 12) (bytes : Nat) (d free : Word),
    (malformed off bytes →
      s.respond (.read off bytes) free = (.busError, s) ∧ s.respond (.write off bytes d) free = (.busError, s) ∧
      hostStep (.read off bytes) free s = .fault (.busError off) ∧
      hostStep (.write off bytes d) free s = .fault (.busError off)) ∧
    (¬ malformed off bytes →
      (∃ v, s.respond (.read off bytes) free = (.okayData v, s) ∧
        hostStep (.read off bytes) free s = .next { s with resp := some (.okayData v) }) ∧
      (∃ t, s.respond (.write off bytes d) free = (.okay, t) ∧
        hostStep (.write off bytes d) free s = .next { t with resp := some .okay }))

/-- R86: a read of a mapped offset answers the current value, or the draw where R308 leaves it unspecified, and changes
no state. -/
def Obligations.ReadsHaveNoSideEffect : Prop :=
  ∀ (s : State) (off : BitVec 12) (p : Place) (free : Word), placeAt off.toNat = some p →
    s.respond (.read off 4) free = (.okayData (if s.readUnspecified p then free else s.valueAt p off.toNat), s)

/-- R307: while the engine is busy a write to `CMD`, to an operand register or to an input buffer word is ignored, gets
`Okay` and sets `WIGN`; writes to `CTRL` and `STATUS` take effect. -/
def Obligations.BusyWritesAreIgnored : Prop :=
  ∀ (s : State) (off : BitVec 12) (d free : Word), s.status.busy = true →
    (protectedOffset off →
      s.respond (.write off 4 d) free = (.okay, { s with status := { s.status with wign := true } })) ∧
    s.respond (.write 0x004 4 d) free = (.okay, { s with ie := d.getLsbD 0 }) ∧
    s.respond (.write 0x00C 4 d) free = (.okay, { s with status := s.status.clearW1C d })

/-- R308: while a command runs, a read of a place it writes gives the draw, whatever that is; a read of any other place
gives its value; `STATUS` reads `BUSY` = 1 and `CMD` reads the running word. -/
def Obligations.BusyReadsAreUnspecified : Prop :=
  ∀ (s : State) (op : BitVec 4) (w : Word) (i : Instr) (off : BitVec 12) (p : Place) (free : Word), s.Inv →
    s.phase = .running op w → decodeCmd w = .legal i → placeAt off.toNat = some p →
    (p ∈ Instr.writeSet i → s.respond (.read off 4) free = (.okayData free, s)) ∧
    (p ∉ Instr.writeSet i → s.respond (.read off 4) free = (.okayData (s.valueAt p off.toNat), s)) ∧
    (∃ v, s.respond (.read 0x00C 4) free = (.okayData v, s) ∧ v.getLsbD 0 = true) ∧
    s.respond (.read 0x008 4) free = (.okayData w, s)

/-- Writes to `ID` and to every other RO register or buffer are ignored with `Okay`, busy or not, and set no `WIGN`
(R32 (b), R33, R40). -/
def Obligations.ReadOnlyWritesAreIgnored : Prop :=
  ∀ (s : State) (off : BitVec 12) (d free : Word),
    off.toNat % 4 = 0 →
    (off.toNat = 0 ∨ (0x030 ≤ off.toNat ∧ off.toNat < 0x04C) ∨ (0x050 ≤ off.toNat ∧ off.toNat < 0x070)) →
    s.respond (.write off 4 d) free = (.okay, s) ∧ s.readReg .id = 0x544F5450

/-- A write of an RW operand register of an idle block stores the bits inside the register's field: the next read gives
the word masked to the field (R32, R34, R41 to R46). -/
def Obligations.RegisterWriteReadsBack : Prop :=
  ∀ (s : State) (off : BitVec 12) (mask d free free' : Word), s.status.busy = false →
    (off, mask) ∈ ([(0x004, 0x00000001), (0x010, 0x0000FFFF), (0x014, 0x0000FFFF), (0x018, 0x0000000F),
      (0x01C, 0xFFFFFFFF), (0x020, 0xFFFFFFFF), (0x024, 0xFFFFFFFF), (0x028, 0xFFFFFFFF),
      (0x02C, 0xFFFFFFFF)] : List (BitVec 12 × Word)) →
    ∃ t, s.respond (.write off 4 d) free = (.okay, t) ∧ t.respond (.read off 4) free' = (.okayData (d &&& mask), t) ∧
      t.status = s.status ∧ t.mem = s.mem ∧
      ∀ r, placeAt off.toNat ≠ some (.reg r) → t.readReg r = s.readReg r

/-- R54: a word of any buffer is its four bytes, byte 0 least significant; a write of a word of `IN_BUF` or `KEY_BUF` of
an idle block sets those four bytes, changes nothing else, and reads back. -/
def Obligations.BufferWordRoundTrip : Prop :=
  (∀ (s : State) (b : Buf) (off : Nat), (s.valueAt (.buf b) off).toNat =
    (Memory.read s.mem off).toNat + 2 ^ 8 * (Memory.read s.mem (off + 1)).toNat +
      2 ^ 16 * (Memory.read s.mem (off + 2)).toNat + 2 ^ 24 * (Memory.read s.mem (off + 3)).toNat) ∧
  (∀ (s : State) (off : BitVec 12) (d free free' : Word), s.status.busy = false → off.toNat % 4 = 0 →
    0x100 ≤ off.toNat → off.toNat < 0x2A0 →
    ∃ t, s.respond (.write off 4 d) free = (.okay, t) ∧ t.respond (.read off 4) free' = (.okayData d, t) ∧
      (∀ k < 4, Memory.read t.mem (off.toNat + k) = d.extractLsb' (8 * k) 8) ∧
      (∀ a, ¬ (off.toNat ≤ a ∧ a < off.toNat + 4) → Memory.read t.mem a = Memory.read s.mem a) ∧
      t = { s with mem := t.mem })

/-- R32 (e): a host read of a register that is not unspecified answers the register's fields at their bit positions, and
the bits outside them read as 0 (R32 (a)). `STATUS` is stated bit by bit (R36), the single-field registers as numbers,
the 64-bit quantities as their two halves (R45, R46). -/
def Obligations.ReservedBitsReadZero : Prop :=
  ∀ s : State,
    (∀ (off : BitVec 12) (r : Reg) (free : Word), placeAt off.toNat = some (.reg r) →
      s.readUnspecified (.reg r) = false → s.respond (.read off 4) free = (.okayData (s.readReg r), s)) ∧
    s.readReg .id = 0x544F5450 ∧ (s.readReg .ctrl).toNat = s.ie.toNat ∧ s.readReg .cmd = s.cmd ∧
    (∀ k, (s.readReg .status).getLsbD k =
      if k = 0 then s.status.busy
      else if k = 1 then s.status.done
      else if k = 2 then s.status.err
      else if k = 3 then s.status.wign
      else if 8 ≤ k ∧ k ≤ 11 then s.status.errCode.getLsbD (k - 8)
      else false) ∧
    (s.readReg .inLen).toNat = s.inLen.toNat ∧ (s.readReg .keyLen).toNat = s.keyLen.toNat ∧
    (s.readReg .digits).toNat = s.digits.toNat ∧ s.readReg .timeStep = s.timeStep ∧
    s.timestamp.toNat = (s.readReg .timestampHi).toNat * 2 ^ 32 + (s.readReg .timestampLo).toNat ∧
    s.counter.toNat = (s.readReg .counterHi).toNat * 2 ^ 32 + (s.readReg .counterLo).toNat ∧
    s.readReg .secRemain = s.secRemain ∧ (s.readReg .offset).toNat = s.offset.toNat ∧
    (s.readReg .binary).toNat = s.binary.toNat ∧ s.readReg .code = s.code ∧
    (s.readReg .decValid).toNat = s.decValid.toNat ∧ (s.readReg .decDropped).toNat = s.decDropped.toNat ∧
    (s.readReg .decTail).toNat = s.decTail.toNat ∧
    ∀ (r : Reg) (mask : Word),
      (r, mask) ∈ ([(.ctrl, 0xFFFFFFFE), (.status, 0xFFFFF0F0), (.inLen, 0xFFFF0000), (.keyLen, 0xFFFF0000),
        (.digits, 0xFFFFFFF0), (.offset, 0xFFFFFFF0), (.binary, 0x80000000), (.decValid, 0xFFFFFE00),
        (.decDropped, 0xFFFFFE00), (.decTail, 0xFFFFFFF8)] : List (Reg × Word)) →
      s.readReg r &&& mask = 0

/-- A write of `STATUS` clears what is written as one: bit 1 `DONE`, bit 2 `ERR` and `ERRCODE` together, bit 3 `WIGN`;
nothing else changes, and `IRQ` falls with `DONE` (R36 to R40, R62, R277). -/
def Obligations.StatusWriteClearsOnes : Prop :=
  ∀ (s : State) (d free : Word), ∃ t, s.respond (.write 0x00C 4 d) free = (.okay, t) ∧
    t = { s with status := t.status } ∧ t.status.busy = s.status.busy ∧
    (t.status.done = true ↔ s.status.done = true ∧ d.getLsbD 1 = false) ∧
    (t.status.err = true ↔ s.status.err = true ∧ d.getLsbD 2 = false) ∧
    t.status.errCode = (if d.getLsbD 2 then 0 else s.status.errCode) ∧
    (t.status.wign = true ↔ s.status.wign = true ∧ d.getLsbD 3 = false) ∧
    (t.irq = true ↔ s.ie = true ∧ s.status.done = true ∧ d.getLsbD 1 = false)

/-- R40: in a step without reset `WIGN` ends set exactly when a host write was ignored because the engine was busy, or
it was set and no write of `STATUS` with bit 3 cleared it. -/
def Obligations.WignIsSticky : Prop :=
  ∀ (s t : State), s.nextInput.rst = false → step s = .next t →
    (t.status.wign = true ↔
      (s.status.busy = true ∧ ∃ off d, s.nextInput.event = .host (.write off 4 d) ∧ protectedOffset off) ∨
      (s.status.wign = true ∧ ¬ ∃ d, s.nextInput.event = .host (.write 0x00C 4 d) ∧ d.getLsbD 3 = true))

/-- Only a host write of the register changes `CTRL`, `DIGITS` or `TIME_STEP` in a step without reset (R34, R43,
R44). -/
def Obligations.OnlyTheHostWritesTheConfiguration : Prop :=
  ∀ (s t : State), s.nextInput.rst = false → step s = .next t →
    ((∀ d, s.nextInput.event ≠ .host (.write 0x004 4 d)) → t.ie = s.ie) ∧
    ((∀ d, s.nextInput.event ≠ .host (.write 0x018 4 d)) → t.digits = s.digits) ∧
    ((∀ d, s.nextInput.event ≠ .host (.write 0x01C 4 d)) → t.timeStep = s.timeStep)

/-- A command starts only by a host write of `CMD` to an idle block, which `CMD` then holds; no command or other step
writes `CMD` or `TS_SAMPLE` (R35, R60, R143). A step in which the host does not act and no command runs changes nothing
but the pins and the list of inputs (R140: the engine has a step only while `Running`); that list, and what a step takes
when it is empty, are the model's choice (log entries 1 and 2). -/
def Obligations.OnlyACommandWriteStartsTheEngine : Prop :=
  ∀ (s t : State), s.nextInput.rst = false → step s = .next t →
    (s.phase = .idle → ∀ op w, t.phase = .running op w →
      s.nextInput.event = .host (.write 0x008 4 w) ∧ s.status.busy = false ∧ t.cmd = w ∧
      t.tsSample = s.nextInput.wallclock) ∧
    ((∀ w, s.nextInput.event ≠ .host (.write 0x008 4 w)) → t.cmd = s.cmd ∧ t.tsSample = s.tsSample) ∧
    (s.nextInput.event = .quiet ∨ (s.nextInput.event = .engine ∧ s.phase = .idle) →
      t = { s with inputs := s.inputs.tail, wallclock := s.nextInput.wallclock, rst := false })

/-- The bus addresses of the window are `BASE + off` for the offsets 0 to 4095, and no other address is the block's
(R83), whatever `BASE` is. -/
def Obligations.WindowAddressesAreBasePlusOffset : Prop :=
  (∀ off : BitVec 12, windowOffset (busAddress off) = some off) ∧
  ∀ (a : Nat) (off : BitVec 12), windowOffset a = some off → a = Config.base + off.toNat

/-! ### Reset (70_reset_and_hazards.md) -/

/-- R68: the reset values the spec gives. `TS_SAMPLE`, for which it gives none, is left out. -/
def Obligations.ResetLeavesTheSpecsValues : Prop :=
  State.reset.readReg .id = 0x544F5450 ∧ State.reset.ie = false ∧ State.reset.cmd = 0 ∧
  State.reset.readReg .status = 0 ∧ State.reset.inLen = 0 ∧ State.reset.keyLen = 0 ∧ State.reset.digits = 6 ∧
  State.reset.timeStep = 30 ∧ State.reset.timestamp = 0 ∧ State.reset.counter = 0 ∧ State.reset.secRemain = 0 ∧
  State.reset.offset = 0 ∧ State.reset.binary = 0 ∧ State.reset.code = 0 ∧ State.reset.decValid = 0 ∧
  State.reset.decDropped = 0 ∧ State.reset.decTail = 0 ∧ (∀ (b : Buf) (k : Nat), State.reset.byteOf b k = 0) ∧
  State.reset.phase = .idle ∧ State.reset.irq = false

/-- R300 and R301: a step under an asserted `RST`, listed in its input or held on the pin with no input listed, abandons
a running command, commits none of its results, serves no transaction, leaves every piece of state at its reset value,
and no `IRQ` follows. That `RST` acts as a level over whole steps is the model's reading (log entry 8), and that the pin
keeps its level when no input is listed is the model's choice (log entry 2). -/
def Obligations.ResetAbandonsTheCommand : Prop :=
  ∀ s : State, s.nextInput.rst = true →
    ∃ t, step s = .next t ∧ t.atReset ∧ t.irq = false ∧ t.status.done = false ∧ t.inputs = s.inputs.tail ∧
      t.rst = true ∧ ∀ x, s.nextInput.event = .host x → t.resp = some (.undefinedByReset s.nextInput.freeData)

/-! ### The whole machine -/

/-- The invariant of the block holds right after reset. -/
def Obligations.ResetMeetsTheBlockInvariant : Prop := State.reset.Inv

/-- Every step keeps the invariant of the block. -/
def Obligations.StepKeepsTheBlockInvariant : Prop :=
  ∀ s t : State, s.Inv → step s = .next t → t.Inv

/-- Nothing is ever stuck or refused: every step answers a next state, unless the host's transaction is malformed and
`RST` is released, when the step faults with its bus error. -/
def Obligations.NoStepIsStuck : Prop :=
  ∀ s : State, (∃ t, step s = .next t) ∨
    ∃ x : HostTxn, s.nextInput.rst = false ∧ s.nextInput.event = .host x ∧ malformed x.off x.bytes ∧
      step s = .fault (.busError x.off)

/-- Every run whose transactions are well formed ends: one step after its last listed input no transaction is left and
the phase is `Idle`, so every accepted command has completed or was abandoned by a reset (R140, R151). That the engine
takes its turn when no input is left is the model's choice (log entry 2). -/
def Obligations.EveryRunReachesItsEnd : Prop :=
  ∀ s : State, (∀ inp ∈ s.inputs, inp.safe = true) →
    ∃ t, Sys2Proof.core.run (s.inputs.length + 1) s = .next t ∧ t.ended
end

