-- ==== Sys2Proof/Laws/Memory.lean ====
section
/-! SUPPORT. What the byte store and the byte strings do, said once: reads after writes, the canonical form, lengths and
entries. -/

namespace Sys2Proof.Machine

/-! ### Reads after writes -/

theorem Memory.read_filter (m : List Host.Cell) (a x : Nat) :
    Memory.read (m.filter fun c => c.1 != a) x = if x = a then 0 else Memory.read m x := by
  induction m with
  | nil => simp [Memory.read]
  | cons c m ih =>
    by_cases h : c.1 = a <;> by_cases hx : c.1 = x <;> simp_all [Memory.read]

theorem Memory.read_insert (m : List Host.Cell) (c : Host.Cell) (x : Nat) (h : ∀ d ∈ m, d.1 ≠ c.1) :
    Memory.read (Memory.insert m c) x = if c.1 = x then c.2 else Memory.read m x := by
  induction m with
  | nil => simp [Memory.insert, Memory.read]
  | cons d m ih =>
    simp only [List.mem_cons, forall_eq_or_imp] at h
    unfold Memory.insert
    split
    · simp [Memory.read]
    · simp only [Memory.read, ih h.2]
      by_cases hd : d.1 = x <;> by_cases hc : c.1 = x <;> simp_all

/-- A read after a write: the byte written at its address, every other byte as before. -/
theorem Memory.read_write (m : List Host.Cell) (a : Nat) (b : Byte) (x : Nat) :
    Memory.read (Memory.write m a b) x = if x = a then b else Memory.read m x := by
  unfold Memory.write
  dsimp only
  split
  · rename_i h
    subst h
    exact Memory.read_filter m a x
  · rw [Memory.read_insert _ _ _ (by simp), Memory.read_filter]
    by_cases h : x = a
    · simp [h]
    · simp [h, Ne.symm h]

/-- A read after a run of bytes was written from `a` on. -/
theorem Memory.read_writeBytes (m : List Host.Cell) (a : Nat) (s : List Byte) (x : Nat) :
    Memory.read (Memory.writeBytes m a s) x =
      if a ≤ x ∧ x < a + s.length then s.getD (x - a) 0 else Memory.read m x := by
  induction s generalizing m a with
  | nil => simp [Memory.writeBytes, show ¬ (a ≤ x ∧ x < a) by omega]
  | cons b s ih =>
    rw [Memory.writeBytes, ih, Memory.read_write]
    by_cases h : x = a
    · subst h
      rw [if_neg (by omega)]
      simp
    · simp only [List.length_cons, h, if_false]
      by_cases h2 : a + 1 ≤ x ∧ x < a + 1 + s.length
      · rw [if_pos h2, if_pos (by omega), show x - a = (x - (a + 1)) + 1 by omega, List.getD_cons_succ]
      · rw [if_neg h2, if_neg (by omega)]

/-! ### The canonical form -/

theorem Memory.mem_insert (m : List Host.Cell) (c x : Host.Cell) :
    x ∈ Memory.insert m c ↔ x = c ∨ x ∈ m := by
  induction m with
  | nil => simp [Memory.insert]
  | cons d m ih =>
    unfold Memory.insert
    split
    · simp
    · simp only [List.mem_cons, ih]
      tauto

theorem Memory.sorted_insert (m : List Host.Cell) (c : Host.Cell) (hm : m.Pairwise (fun a b => a.1 < b.1))
    (h : ∀ d ∈ m, d.1 ≠ c.1) : (Memory.insert m c).Pairwise (fun a b => a.1 < b.1) := by
  induction m with
  | nil => simp [Memory.insert]
  | cons d m ih =>
    rw [List.pairwise_cons] at hm
    simp only [List.mem_cons, forall_eq_or_imp] at h
    unfold Memory.insert
    split
    · rename_i hlt
      refine List.pairwise_cons.2 ⟨?_, List.pairwise_cons.2 hm⟩
      rintro x (_ | ⟨_, hx⟩)
      · exact hlt
      · exact lt_trans hlt (hm.1 x hx)
    · rename_i hlt
      refine List.pairwise_cons.2 ⟨?_, ih hm.2 h.2⟩
      intro x hx
      rcases (Memory.mem_insert m c x).1 hx with rfl | hx
      · have := h.1
        omega
      · exact hm.1 x hx

/-- A write keeps the canonical form. -/
theorem Memory.wf_write (m : List Host.Cell) (a : Nat) (b : Byte) (hm : Memory.wf m) :
    Memory.wf (Memory.write m a b) := by
  have hf : Memory.wf (m.filter fun c => c.1 != a) :=
    ⟨hm.1.filter _, fun c hc => hm.2 c (List.mem_filter.1 hc).1⟩
  unfold Memory.write
  dsimp only
  split
  · exact hf
  · rename_i hb
    refine ⟨Memory.sorted_insert _ _ hf.1 (by simp), fun c hc => ?_⟩
    rcases (Memory.mem_insert _ _ c).1 hc with rfl | hc
    · exact hb
    · exact hf.2 c hc

/-- A run of writes keeps the canonical form. -/
theorem Memory.wf_writeBytes (m : List Host.Cell) (a : Nat) (s : List Byte) (hm : Memory.wf m) :
    Memory.wf (Memory.writeBytes m a s) := by
  induction s generalizing m a with
  | nil => exact hm
  | cons b s ih => exact ih _ _ (Memory.wf_write m a b hm)

/-- A write lists at most its own address anew. -/
theorem Memory.mem_write (m : List Host.Cell) (a : Nat) (b : Byte) (c : Host.Cell) (h : c ∈ Memory.write m a b) :
    c = (a, b) ∨ c ∈ m := by
  unfold Memory.write at h
  dsimp only at h
  split at h
  · exact .inr (List.mem_filter.1 h).1
  · rcases (Memory.mem_insert _ _ c).1 h with rfl | h
    · exact .inl rfl
    · exact .inr (List.mem_filter.1 h).1

/-- A run of writes lists at most its own addresses anew. -/
theorem Memory.mem_writeBytes (m : List Host.Cell) (a : Nat) (s : List Byte) (c : Host.Cell)
    (h : c ∈ Memory.writeBytes m a s) : (a ≤ c.1 ∧ c.1 < a + s.length) ∨ c ∈ m := by
  induction s generalizing m a with
  | nil => exact .inr h
  | cons b s ih =>
    rcases ih _ _ h with h | h
    · left
      simp only [List.length_cons]
      omega
    · rcases Memory.mem_write m a b c h with rfl | h
      · left
        simp
      · exact .inr h

/-! ### Byte strings -/

@[simp] theorem beBytes_length (n v : Nat) : (beBytes n v).length = n := by
  induction n with
  | zero => rfl
  | succ n ih => simp [beBytes, ih]

/-- Byte `j` of `be_n(v)`. -/
theorem beBytes_getElem (n v j : Nat) (h : j < (beBytes n v).length) :
    (beBytes n v)[j] = BitVec.ofNat 8 (v / 256 ^ (n - 1 - j)) := by
  induction n generalizing j with
  | zero => simp [beBytes] at h
  | succ n ih =>
    cases j with
    | zero => simp [beBytes]
    | succ j =>
      simp only [beBytes, List.getElem_cons_succ]
      rw [ih, show n + 1 - 1 - (j + 1) = n - 1 - j by omega]

@[simp] theorem padZeros_length (n : Nat) (s : List Byte) : (padZeros n s).length = n := by
  simp [padZeros]

/-- Byte `i` of a padded string. -/
theorem padZeros_getD (n : Nat) (s : List Byte) (i : Nat) :
    (padZeros n s).getD i 0 = if i < n then s.getD i 0 else 0 := by
  by_cases h : i < n <;> simp [padZeros, List.getD_eq_getElem?_getD, h]

@[simp] theorem Memory.readBytes_length (m : List Host.Cell) (a n : Nat) : (Memory.readBytes m a n).length = n := by
  simp [Memory.readBytes]

/-- Byte `i` of a run read from `a` on. -/
theorem Memory.readBytes_getD (m : List Host.Cell) (a n i : Nat) :
    (Memory.readBytes m a n).getD i 0 = if i < n then Memory.read m (a + i) else 0 := by
  by_cases h : i < n <;> simp [Memory.readBytes, List.getD_eq_getElem?_getD, h]

/-- Two stores with equal bytes on a range give equal runs. -/
theorem Memory.readBytes_congr (m m' : List Host.Cell) (a n : Nat)
    (h : ∀ i < n, Memory.read m (a + i) = Memory.read m' (a + i)) : Memory.readBytes m a n = Memory.readBytes m' a n := by
  unfold Memory.readBytes
  exact List.map_congr_left fun i hi => h i (List.mem_range.1 hi)

/-- Reading back a run just written. -/
theorem Memory.readBytes_writeBytes (m : List Host.Cell) (a : Nat) (s : List Byte) :
    Memory.readBytes (Memory.writeBytes m a s) a s.length = s := by
  refine List.ext_getElem (by simp) fun i h1 h2 => ?_
  simp only [Memory.readBytes, List.getElem_map, List.getElem_range, Memory.read_writeBytes]
  rw [if_pos (by omega)]
  simp [List.getD_eq_getElem?_getD, h2]

/-! ### The byte buffers -/

/-- A byte after a buffer was filled: the padded string inside the buffer, every other byte as before. -/
theorem State.read_fillBuf (s : State) (b : Buf) (v : List Byte) (x : Nat) :
    Memory.read (s.fillBuf b v).mem x =
      if b.base ≤ x ∧ x < b.base + b.size then v.getD (x - b.base) 0 else Memory.read s.mem x := by
  simp only [State.fillBuf, Memory.read_writeBytes, padZeros_length]
  split
  · rename_i h
    rw [padZeros_getD, if_pos (by omega)]
  · rfl

/-- A byte of the buffer just filled. -/
theorem State.byteOf_fillBuf (s : State) (b : Buf) (v : List Byte) (k : Nat) (h : k < b.size) :
    (s.fillBuf b v).byteOf b k = v.getD k 0 := by
  rw [State.byteOf, State.read_fillBuf, if_pos (by omega), Nat.add_sub_cancel_left]

/-- The buffers are disjoint (R31). -/
theorem Buf.disjoint (b c : Buf) (h : b ≠ c) (x : Nat) (hb : b.base ≤ x ∧ x < b.base + b.size) :
    ¬ (c.base ≤ x ∧ x < c.base + c.size) := by
  cases b <;> cases c <;>
    simp_all [Buf.base, Buf.size, Config.digestBytes, Config.codeCharsBytes, Config.inMax, Config.keyMax] <;> omega

/-- A byte of another buffer than the one filled. -/
theorem State.byteOf_fillBuf_ne (s : State) (b c : Buf) (hne : c ≠ b) (v : List Byte) (k : Nat) (h : k < c.size) :
    (s.fillBuf b v).byteOf c k = s.byteOf c k := by
  rw [State.byteOf, State.read_fillBuf, if_neg (Buf.disjoint c b hne _ ⟨by omega, by omega⟩)]
  rfl

theorem Buf.holds_iff (b : Buf) (x : Nat) : b.holds x = true ↔ b.base ≤ x ∧ x < b.base + b.size := by
  simp [Buf.holds]

/-- Bytes outside a buffer are left by filling it. -/
theorem State.read_fillBuf_outside (s : State) (b : Buf) (v : List Byte) (x : Nat) (h : b.holds x = false) :
    Memory.read (s.fillBuf b v).mem x = Memory.read s.mem x := by
  rw [State.read_fillBuf, if_neg]
  rw [← Buf.holds_iff, h]
  simp

/-- A byte after CLEAR's sweep: 0x00 in every buffer, every other byte as before. -/
theorem Memory.read_clearBufs (m : List Host.Cell) (x : Nat) :
    Memory.read (Memory.clearBufs m) x =
      if bufMap.any (fun b => b.holds x) then 0 else Memory.read m x := by
  simp only [Memory.clearBufs, List.foldl, Memory.read_writeBytes, List.length_replicate, bufMap, List.any, Bool.or_false,
    Bool.or_eq_true, Buf.holds_iff]
  have hr : ∀ n k : Nat, (List.replicate n (0 : Byte)).getD k 0 = 0 := by
    intro n k
    simp only [List.getD_eq_getElem?_getD, List.getElem?_replicate]
    split <;> rfl
  simp only [hr]
  split_ifs <;> first | rfl | (exfalso; tauto)

/-! ### Canonical form -/

theorem State.wf_fillBuf (s : State) (b : Buf) (v : List Byte) (h : Memory.wf s.mem) : Memory.wf (s.fillBuf b v).mem :=
  Memory.wf_writeBytes _ _ _ h

theorem Memory.wf_clearBufs (m : List Host.Cell) (h : Memory.wf m) : Memory.wf (Memory.clearBufs m) := by
  rw [Memory.clearBufs]
  generalize [Buf.inBuf, .keyBuf, .digest, .codeChars] = bs
  induction bs generalizing m with
  | nil => exact h
  | cons b bs ih => exact ih _ (Memory.wf_writeBytes _ _ _ h)

/-- The byte store right after reset is in canonical form. -/
theorem State.reset_mem_wf : Memory.wf State.reset.mem := by decide

/-! ### Words of bytes -/

/-- A word read from four bytes just written is the word whose lanes they are (R54, R81). -/
theorem Memory.readWord_lanes (m : List Host.Cell) (a : Nat) (w : Word) :
    Memory.readWord (Memory.writeBytes m a (lanes w)) a = w := by
  unfold Memory.readWord
  simp only [Memory.read_writeBytes, lanes, List.length_cons, List.length_nil]
  simp only [show a ≤ a + 3 ∧ a + 3 < a + (0 + 1 + 1 + 1 + 1) by omega, show a ≤ a + 2 ∧ a + 2 < a + (0 + 1 + 1 + 1 + 1) by omega,
    show a ≤ a + 1 ∧ a + 1 < a + (0 + 1 + 1 + 1 + 1) by omega, show a ≤ a ∧ a < a + (0 + 1 + 1 + 1 + 1) by omega,
    and_self, if_true, Nat.add_sub_cancel_left, Nat.sub_self, List.getD_cons_zero, List.getD_cons_succ]
  ext i hi
  simp only [BitVec.getElem_append, BitVec.getElem_extractLsb']
  have : i < 8 ∨ (8 ≤ i ∧ i < 16) ∨ (16 ≤ i ∧ i < 24) ∨ (24 ≤ i ∧ i < 32) := by omega
  rcases this with h | h | h | h <;> (split_ifs <;> first | omega | (rw [BitVec.getLsbD_eq_getElem (by omega)]; congr 1; omega))

end Sys2Proof.Machine
end

