-- ==== Sys2Proof/Laws/State.lean ====
section
/-! SUPPORT. What each named update of the state does to each field, true by unfolding it once, so that no later proof
unfolds a record update: one lemma per field per update. -/

namespace Sys2Proof.Machine

variable (s : State)

@[simp] theorem State.setCounter_ie (v : Dword) : (s.setCounter v).ie = s.ie := rfl
@[simp] theorem State.setCounter_cmd (v : Dword) : (s.setCounter v).cmd = s.cmd := rfl
@[simp] theorem State.setCounter_status (v : Dword) : (s.setCounter v).status = s.status := rfl
@[simp] theorem State.setCounter_inLen (v : Dword) : (s.setCounter v).inLen = s.inLen := rfl
@[simp] theorem State.setCounter_keyLen (v : Dword) : (s.setCounter v).keyLen = s.keyLen := rfl
@[simp] theorem State.setCounter_digits (v : Dword) : (s.setCounter v).digits = s.digits := rfl
@[simp] theorem State.setCounter_timeStep (v : Dword) : (s.setCounter v).timeStep = s.timeStep := rfl
@[simp] theorem State.setCounter_timestampLo (v : Dword) : (s.setCounter v).timestampLo = s.timestampLo := rfl
@[simp] theorem State.setCounter_timestampHi (v : Dword) : (s.setCounter v).timestampHi = s.timestampHi := rfl
@[simp] theorem State.setCounter_counterLo (v : Dword) : (s.setCounter v).counterLo = v.extractLsb' 0 32 := rfl
@[simp] theorem State.setCounter_counterHi (v : Dword) : (s.setCounter v).counterHi = v.extractLsb' 32 32 := rfl
@[simp] theorem State.setCounter_secRemain (v : Dword) : (s.setCounter v).secRemain = s.secRemain := rfl
@[simp] theorem State.setCounter_offset (v : Dword) : (s.setCounter v).offset = s.offset := rfl
@[simp] theorem State.setCounter_binary (v : Dword) : (s.setCounter v).binary = s.binary := rfl
@[simp] theorem State.setCounter_code (v : Dword) : (s.setCounter v).code = s.code := rfl
@[simp] theorem State.setCounter_decValid (v : Dword) : (s.setCounter v).decValid = s.decValid := rfl
@[simp] theorem State.setCounter_decDropped (v : Dword) : (s.setCounter v).decDropped = s.decDropped := rfl
@[simp] theorem State.setCounter_decTail (v : Dword) : (s.setCounter v).decTail = s.decTail := rfl
@[simp] theorem State.setCounter_mem (v : Dword) : (s.setCounter v).mem = s.mem := rfl
@[simp] theorem State.setCounter_phase (v : Dword) : (s.setCounter v).phase = s.phase := rfl
@[simp] theorem State.setCounter_tsSample (v : Dword) : (s.setCounter v).tsSample = s.tsSample := rfl
@[simp] theorem State.setCounter_wallclock (v : Dword) : (s.setCounter v).wallclock = s.wallclock := rfl
@[simp] theorem State.setCounter_rst (v : Dword) : (s.setCounter v).rst = s.rst := rfl
@[simp] theorem State.setCounter_resp (v : Dword) : (s.setCounter v).resp = s.resp := rfl
@[simp] theorem State.setCounter_inputs (v : Dword) : (s.setCounter v).inputs = s.inputs := rfl

@[simp] theorem State.setTimestamp_ie (v : Dword) : (s.setTimestamp v).ie = s.ie := rfl
@[simp] theorem State.setTimestamp_cmd (v : Dword) : (s.setTimestamp v).cmd = s.cmd := rfl
@[simp] theorem State.setTimestamp_status (v : Dword) : (s.setTimestamp v).status = s.status := rfl
@[simp] theorem State.setTimestamp_inLen (v : Dword) : (s.setTimestamp v).inLen = s.inLen := rfl
@[simp] theorem State.setTimestamp_keyLen (v : Dword) : (s.setTimestamp v).keyLen = s.keyLen := rfl
@[simp] theorem State.setTimestamp_digits (v : Dword) : (s.setTimestamp v).digits = s.digits := rfl
@[simp] theorem State.setTimestamp_timeStep (v : Dword) : (s.setTimestamp v).timeStep = s.timeStep := rfl
@[simp] theorem State.setTimestamp_timestampLo (v : Dword) : (s.setTimestamp v).timestampLo = v.extractLsb' 0 32 := rfl
@[simp] theorem State.setTimestamp_timestampHi (v : Dword) : (s.setTimestamp v).timestampHi = v.extractLsb' 32 32 := rfl
@[simp] theorem State.setTimestamp_counterLo (v : Dword) : (s.setTimestamp v).counterLo = s.counterLo := rfl
@[simp] theorem State.setTimestamp_counterHi (v : Dword) : (s.setTimestamp v).counterHi = s.counterHi := rfl
@[simp] theorem State.setTimestamp_secRemain (v : Dword) : (s.setTimestamp v).secRemain = s.secRemain := rfl
@[simp] theorem State.setTimestamp_offset (v : Dword) : (s.setTimestamp v).offset = s.offset := rfl
@[simp] theorem State.setTimestamp_binary (v : Dword) : (s.setTimestamp v).binary = s.binary := rfl
@[simp] theorem State.setTimestamp_code (v : Dword) : (s.setTimestamp v).code = s.code := rfl
@[simp] theorem State.setTimestamp_decValid (v : Dword) : (s.setTimestamp v).decValid = s.decValid := rfl
@[simp] theorem State.setTimestamp_decDropped (v : Dword) : (s.setTimestamp v).decDropped = s.decDropped := rfl
@[simp] theorem State.setTimestamp_decTail (v : Dword) : (s.setTimestamp v).decTail = s.decTail := rfl
@[simp] theorem State.setTimestamp_mem (v : Dword) : (s.setTimestamp v).mem = s.mem := rfl
@[simp] theorem State.setTimestamp_phase (v : Dword) : (s.setTimestamp v).phase = s.phase := rfl
@[simp] theorem State.setTimestamp_tsSample (v : Dword) : (s.setTimestamp v).tsSample = s.tsSample := rfl
@[simp] theorem State.setTimestamp_wallclock (v : Dword) : (s.setTimestamp v).wallclock = s.wallclock := rfl
@[simp] theorem State.setTimestamp_rst (v : Dword) : (s.setTimestamp v).rst = s.rst := rfl
@[simp] theorem State.setTimestamp_resp (v : Dword) : (s.setTimestamp v).resp = s.resp := rfl
@[simp] theorem State.setTimestamp_inputs (v : Dword) : (s.setTimestamp v).inputs = s.inputs := rfl

@[simp] theorem State.fillBuf_ie (b : Buf) (v : List Byte) : (s.fillBuf b v).ie = s.ie := rfl
@[simp] theorem State.fillBuf_cmd (b : Buf) (v : List Byte) : (s.fillBuf b v).cmd = s.cmd := rfl
@[simp] theorem State.fillBuf_status (b : Buf) (v : List Byte) : (s.fillBuf b v).status = s.status := rfl
@[simp] theorem State.fillBuf_inLen (b : Buf) (v : List Byte) : (s.fillBuf b v).inLen = s.inLen := rfl
@[simp] theorem State.fillBuf_keyLen (b : Buf) (v : List Byte) : (s.fillBuf b v).keyLen = s.keyLen := rfl
@[simp] theorem State.fillBuf_digits (b : Buf) (v : List Byte) : (s.fillBuf b v).digits = s.digits := rfl
@[simp] theorem State.fillBuf_timeStep (b : Buf) (v : List Byte) : (s.fillBuf b v).timeStep = s.timeStep := rfl
@[simp] theorem State.fillBuf_timestampLo (b : Buf) (v : List Byte) : (s.fillBuf b v).timestampLo = s.timestampLo := rfl
@[simp] theorem State.fillBuf_timestampHi (b : Buf) (v : List Byte) : (s.fillBuf b v).timestampHi = s.timestampHi := rfl
@[simp] theorem State.fillBuf_counterLo (b : Buf) (v : List Byte) : (s.fillBuf b v).counterLo = s.counterLo := rfl
@[simp] theorem State.fillBuf_counterHi (b : Buf) (v : List Byte) : (s.fillBuf b v).counterHi = s.counterHi := rfl
@[simp] theorem State.fillBuf_secRemain (b : Buf) (v : List Byte) : (s.fillBuf b v).secRemain = s.secRemain := rfl
@[simp] theorem State.fillBuf_offset (b : Buf) (v : List Byte) : (s.fillBuf b v).offset = s.offset := rfl
@[simp] theorem State.fillBuf_binary (b : Buf) (v : List Byte) : (s.fillBuf b v).binary = s.binary := rfl
@[simp] theorem State.fillBuf_code (b : Buf) (v : List Byte) : (s.fillBuf b v).code = s.code := rfl
@[simp] theorem State.fillBuf_decValid (b : Buf) (v : List Byte) : (s.fillBuf b v).decValid = s.decValid := rfl
@[simp] theorem State.fillBuf_decDropped (b : Buf) (v : List Byte) : (s.fillBuf b v).decDropped = s.decDropped := rfl
@[simp] theorem State.fillBuf_decTail (b : Buf) (v : List Byte) : (s.fillBuf b v).decTail = s.decTail := rfl
@[simp] theorem State.fillBuf_mem (b : Buf) (v : List Byte) : (s.fillBuf b v).mem = Memory.writeBytes s.mem b.base (padZeros b.size v) := rfl
@[simp] theorem State.fillBuf_phase (b : Buf) (v : List Byte) : (s.fillBuf b v).phase = s.phase := rfl
@[simp] theorem State.fillBuf_tsSample (b : Buf) (v : List Byte) : (s.fillBuf b v).tsSample = s.tsSample := rfl
@[simp] theorem State.fillBuf_wallclock (b : Buf) (v : List Byte) : (s.fillBuf b v).wallclock = s.wallclock := rfl
@[simp] theorem State.fillBuf_rst (b : Buf) (v : List Byte) : (s.fillBuf b v).rst = s.rst := rfl
@[simp] theorem State.fillBuf_resp (b : Buf) (v : List Byte) : (s.fillBuf b v).resp = s.resp := rfl
@[simp] theorem State.fillBuf_inputs (b : Buf) (v : List Byte) : (s.fillBuf b v).inputs = s.inputs := rfl

@[simp] theorem State.accept_ie (w : Word) : (s.accept w).ie = s.ie := rfl
@[simp] theorem State.accept_cmd (w : Word) : (s.accept w).cmd = w := rfl
@[simp] theorem State.accept_status (w : Word) : (s.accept w).status = { s.status with done := false, err := false, errCode := 0, busy := true } := rfl
@[simp] theorem State.accept_inLen (w : Word) : (s.accept w).inLen = s.inLen := rfl
@[simp] theorem State.accept_keyLen (w : Word) : (s.accept w).keyLen = s.keyLen := rfl
@[simp] theorem State.accept_digits (w : Word) : (s.accept w).digits = s.digits := rfl
@[simp] theorem State.accept_timeStep (w : Word) : (s.accept w).timeStep = s.timeStep := rfl
@[simp] theorem State.accept_timestampLo (w : Word) : (s.accept w).timestampLo = s.timestampLo := rfl
@[simp] theorem State.accept_timestampHi (w : Word) : (s.accept w).timestampHi = s.timestampHi := rfl
@[simp] theorem State.accept_counterLo (w : Word) : (s.accept w).counterLo = s.counterLo := rfl
@[simp] theorem State.accept_counterHi (w : Word) : (s.accept w).counterHi = s.counterHi := rfl
@[simp] theorem State.accept_secRemain (w : Word) : (s.accept w).secRemain = s.secRemain := rfl
@[simp] theorem State.accept_offset (w : Word) : (s.accept w).offset = s.offset := rfl
@[simp] theorem State.accept_binary (w : Word) : (s.accept w).binary = s.binary := rfl
@[simp] theorem State.accept_code (w : Word) : (s.accept w).code = s.code := rfl
@[simp] theorem State.accept_decValid (w : Word) : (s.accept w).decValid = s.decValid := rfl
@[simp] theorem State.accept_decDropped (w : Word) : (s.accept w).decDropped = s.decDropped := rfl
@[simp] theorem State.accept_decTail (w : Word) : (s.accept w).decTail = s.decTail := rfl
@[simp] theorem State.accept_mem (w : Word) : (s.accept w).mem = s.mem := rfl
@[simp] theorem State.accept_phase (w : Word) : (s.accept w).phase = .running (opField w) w := rfl
@[simp] theorem State.accept_tsSample (w : Word) : (s.accept w).tsSample = s.wallclock := rfl
@[simp] theorem State.accept_wallclock (w : Word) : (s.accept w).wallclock = s.wallclock := rfl
@[simp] theorem State.accept_rst (w : Word) : (s.accept w).rst = s.rst := rfl
@[simp] theorem State.accept_resp (w : Word) : (s.accept w).resp = s.resp := rfl
@[simp] theorem State.accept_inputs (w : Word) : (s.accept w).inputs = s.inputs := rfl

@[simp] theorem State.raiseCmdError_ie (e : CmdError) : (s.raiseCmdError e).ie = s.ie := rfl
@[simp] theorem State.raiseCmdError_cmd (e : CmdError) : (s.raiseCmdError e).cmd = s.cmd := rfl
@[simp] theorem State.raiseCmdError_status (e : CmdError) : (s.raiseCmdError e).status = { s.status with busy := false, done := true, err := true, errCode := e.code } := rfl
@[simp] theorem State.raiseCmdError_inLen (e : CmdError) : (s.raiseCmdError e).inLen = s.inLen := rfl
@[simp] theorem State.raiseCmdError_keyLen (e : CmdError) : (s.raiseCmdError e).keyLen = s.keyLen := rfl
@[simp] theorem State.raiseCmdError_digits (e : CmdError) : (s.raiseCmdError e).digits = s.digits := rfl
@[simp] theorem State.raiseCmdError_timeStep (e : CmdError) : (s.raiseCmdError e).timeStep = s.timeStep := rfl
@[simp] theorem State.raiseCmdError_timestampLo (e : CmdError) : (s.raiseCmdError e).timestampLo = s.timestampLo := rfl
@[simp] theorem State.raiseCmdError_timestampHi (e : CmdError) : (s.raiseCmdError e).timestampHi = s.timestampHi := rfl
@[simp] theorem State.raiseCmdError_counterLo (e : CmdError) : (s.raiseCmdError e).counterLo = s.counterLo := rfl
@[simp] theorem State.raiseCmdError_counterHi (e : CmdError) : (s.raiseCmdError e).counterHi = s.counterHi := rfl
@[simp] theorem State.raiseCmdError_secRemain (e : CmdError) : (s.raiseCmdError e).secRemain = s.secRemain := rfl
@[simp] theorem State.raiseCmdError_offset (e : CmdError) : (s.raiseCmdError e).offset = s.offset := rfl
@[simp] theorem State.raiseCmdError_binary (e : CmdError) : (s.raiseCmdError e).binary = s.binary := rfl
@[simp] theorem State.raiseCmdError_code (e : CmdError) : (s.raiseCmdError e).code = s.code := rfl
@[simp] theorem State.raiseCmdError_decValid (e : CmdError) : (s.raiseCmdError e).decValid = s.decValid := rfl
@[simp] theorem State.raiseCmdError_decDropped (e : CmdError) : (s.raiseCmdError e).decDropped = s.decDropped := rfl
@[simp] theorem State.raiseCmdError_decTail (e : CmdError) : (s.raiseCmdError e).decTail = s.decTail := rfl
@[simp] theorem State.raiseCmdError_mem (e : CmdError) : (s.raiseCmdError e).mem = s.mem := rfl
@[simp] theorem State.raiseCmdError_phase (e : CmdError) : (s.raiseCmdError e).phase = .idle := rfl
@[simp] theorem State.raiseCmdError_tsSample (e : CmdError) : (s.raiseCmdError e).tsSample = s.tsSample := rfl
@[simp] theorem State.raiseCmdError_wallclock (e : CmdError) : (s.raiseCmdError e).wallclock = s.wallclock := rfl
@[simp] theorem State.raiseCmdError_rst (e : CmdError) : (s.raiseCmdError e).rst = s.rst := rfl
@[simp] theorem State.raiseCmdError_resp (e : CmdError) : (s.raiseCmdError e).resp = s.resp := rfl
@[simp] theorem State.raiseCmdError_inputs (e : CmdError) : (s.raiseCmdError e).inputs = s.inputs := rfl

@[simp] theorem State.finish_ie : s.finish.ie = s.ie := rfl
@[simp] theorem State.finish_cmd : s.finish.cmd = s.cmd := rfl
@[simp] theorem State.finish_status : s.finish.status = { s.status with busy := false, done := true } := rfl
@[simp] theorem State.finish_inLen : s.finish.inLen = s.inLen := rfl
@[simp] theorem State.finish_keyLen : s.finish.keyLen = s.keyLen := rfl
@[simp] theorem State.finish_digits : s.finish.digits = s.digits := rfl
@[simp] theorem State.finish_timeStep : s.finish.timeStep = s.timeStep := rfl
@[simp] theorem State.finish_timestampLo : s.finish.timestampLo = s.timestampLo := rfl
@[simp] theorem State.finish_timestampHi : s.finish.timestampHi = s.timestampHi := rfl
@[simp] theorem State.finish_counterLo : s.finish.counterLo = s.counterLo := rfl
@[simp] theorem State.finish_counterHi : s.finish.counterHi = s.counterHi := rfl
@[simp] theorem State.finish_secRemain : s.finish.secRemain = s.secRemain := rfl
@[simp] theorem State.finish_offset : s.finish.offset = s.offset := rfl
@[simp] theorem State.finish_binary : s.finish.binary = s.binary := rfl
@[simp] theorem State.finish_code : s.finish.code = s.code := rfl
@[simp] theorem State.finish_decValid : s.finish.decValid = s.decValid := rfl
@[simp] theorem State.finish_decDropped : s.finish.decDropped = s.decDropped := rfl
@[simp] theorem State.finish_decTail : s.finish.decTail = s.decTail := rfl
@[simp] theorem State.finish_mem : s.finish.mem = s.mem := rfl
@[simp] theorem State.finish_phase : s.finish.phase = .idle := rfl
@[simp] theorem State.finish_tsSample : s.finish.tsSample = s.tsSample := rfl
@[simp] theorem State.finish_wallclock : s.finish.wallclock = s.wallclock := rfl
@[simp] theorem State.finish_rst : s.finish.rst = s.rst := rfl
@[simp] theorem State.finish_resp : s.finish.resp = s.resp := rfl
@[simp] theorem State.finish_inputs : s.finish.inputs = s.inputs := rfl

@[simp] theorem State.setWign_ie : s.setWign.ie = s.ie := rfl
@[simp] theorem State.setWign_cmd : s.setWign.cmd = s.cmd := rfl
@[simp] theorem State.setWign_status : s.setWign.status = { s.status with wign := true } := rfl
@[simp] theorem State.setWign_inLen : s.setWign.inLen = s.inLen := rfl
@[simp] theorem State.setWign_keyLen : s.setWign.keyLen = s.keyLen := rfl
@[simp] theorem State.setWign_digits : s.setWign.digits = s.digits := rfl
@[simp] theorem State.setWign_timeStep : s.setWign.timeStep = s.timeStep := rfl
@[simp] theorem State.setWign_timestampLo : s.setWign.timestampLo = s.timestampLo := rfl
@[simp] theorem State.setWign_timestampHi : s.setWign.timestampHi = s.timestampHi := rfl
@[simp] theorem State.setWign_counterLo : s.setWign.counterLo = s.counterLo := rfl
@[simp] theorem State.setWign_counterHi : s.setWign.counterHi = s.counterHi := rfl
@[simp] theorem State.setWign_secRemain : s.setWign.secRemain = s.secRemain := rfl
@[simp] theorem State.setWign_offset : s.setWign.offset = s.offset := rfl
@[simp] theorem State.setWign_binary : s.setWign.binary = s.binary := rfl
@[simp] theorem State.setWign_code : s.setWign.code = s.code := rfl
@[simp] theorem State.setWign_decValid : s.setWign.decValid = s.decValid := rfl
@[simp] theorem State.setWign_decDropped : s.setWign.decDropped = s.decDropped := rfl
@[simp] theorem State.setWign_decTail : s.setWign.decTail = s.decTail := rfl
@[simp] theorem State.setWign_mem : s.setWign.mem = s.mem := rfl
@[simp] theorem State.setWign_phase : s.setWign.phase = s.phase := rfl
@[simp] theorem State.setWign_tsSample : s.setWign.tsSample = s.tsSample := rfl
@[simp] theorem State.setWign_wallclock : s.setWign.wallclock = s.wallclock := rfl
@[simp] theorem State.setWign_rst : s.setWign.rst = s.rst := rfl
@[simp] theorem State.setWign_resp : s.setWign.resp = s.resp := rfl
@[simp] theorem State.setWign_inputs : s.setWign.inputs = s.inputs := rfl

@[simp] theorem State.drive_ie (i : Input) : (s.drive i).ie = s.ie := rfl
@[simp] theorem State.drive_cmd (i : Input) : (s.drive i).cmd = s.cmd := rfl
@[simp] theorem State.drive_status (i : Input) : (s.drive i).status = s.status := rfl
@[simp] theorem State.drive_inLen (i : Input) : (s.drive i).inLen = s.inLen := rfl
@[simp] theorem State.drive_keyLen (i : Input) : (s.drive i).keyLen = s.keyLen := rfl
@[simp] theorem State.drive_digits (i : Input) : (s.drive i).digits = s.digits := rfl
@[simp] theorem State.drive_timeStep (i : Input) : (s.drive i).timeStep = s.timeStep := rfl
@[simp] theorem State.drive_timestampLo (i : Input) : (s.drive i).timestampLo = s.timestampLo := rfl
@[simp] theorem State.drive_timestampHi (i : Input) : (s.drive i).timestampHi = s.timestampHi := rfl
@[simp] theorem State.drive_counterLo (i : Input) : (s.drive i).counterLo = s.counterLo := rfl
@[simp] theorem State.drive_counterHi (i : Input) : (s.drive i).counterHi = s.counterHi := rfl
@[simp] theorem State.drive_secRemain (i : Input) : (s.drive i).secRemain = s.secRemain := rfl
@[simp] theorem State.drive_offset (i : Input) : (s.drive i).offset = s.offset := rfl
@[simp] theorem State.drive_binary (i : Input) : (s.drive i).binary = s.binary := rfl
@[simp] theorem State.drive_code (i : Input) : (s.drive i).code = s.code := rfl
@[simp] theorem State.drive_decValid (i : Input) : (s.drive i).decValid = s.decValid := rfl
@[simp] theorem State.drive_decDropped (i : Input) : (s.drive i).decDropped = s.decDropped := rfl
@[simp] theorem State.drive_decTail (i : Input) : (s.drive i).decTail = s.decTail := rfl
@[simp] theorem State.drive_mem (i : Input) : (s.drive i).mem = s.mem := rfl
@[simp] theorem State.drive_phase (i : Input) : (s.drive i).phase = s.phase := rfl
@[simp] theorem State.drive_tsSample (i : Input) : (s.drive i).tsSample = s.tsSample := rfl
@[simp] theorem State.drive_wallclock (i : Input) : (s.drive i).wallclock = i.wallclock := rfl
@[simp] theorem State.drive_rst (i : Input) : (s.drive i).rst = i.rst := rfl
@[simp] theorem State.drive_resp (i : Input) : (s.drive i).resp = s.resp := rfl
@[simp] theorem State.drive_inputs (i : Input) : (s.drive i).inputs = s.inputs := rfl

@[simp] theorem State.dropInput_ie : s.dropInput.ie = s.ie := rfl
@[simp] theorem State.dropInput_cmd : s.dropInput.cmd = s.cmd := rfl
@[simp] theorem State.dropInput_status : s.dropInput.status = s.status := rfl
@[simp] theorem State.dropInput_inLen : s.dropInput.inLen = s.inLen := rfl
@[simp] theorem State.dropInput_keyLen : s.dropInput.keyLen = s.keyLen := rfl
@[simp] theorem State.dropInput_digits : s.dropInput.digits = s.digits := rfl
@[simp] theorem State.dropInput_timeStep : s.dropInput.timeStep = s.timeStep := rfl
@[simp] theorem State.dropInput_timestampLo : s.dropInput.timestampLo = s.timestampLo := rfl
@[simp] theorem State.dropInput_timestampHi : s.dropInput.timestampHi = s.timestampHi := rfl
@[simp] theorem State.dropInput_counterLo : s.dropInput.counterLo = s.counterLo := rfl
@[simp] theorem State.dropInput_counterHi : s.dropInput.counterHi = s.counterHi := rfl
@[simp] theorem State.dropInput_secRemain : s.dropInput.secRemain = s.secRemain := rfl
@[simp] theorem State.dropInput_offset : s.dropInput.offset = s.offset := rfl
@[simp] theorem State.dropInput_binary : s.dropInput.binary = s.binary := rfl
@[simp] theorem State.dropInput_code : s.dropInput.code = s.code := rfl
@[simp] theorem State.dropInput_decValid : s.dropInput.decValid = s.decValid := rfl
@[simp] theorem State.dropInput_decDropped : s.dropInput.decDropped = s.decDropped := rfl
@[simp] theorem State.dropInput_decTail : s.dropInput.decTail = s.decTail := rfl
@[simp] theorem State.dropInput_mem : s.dropInput.mem = s.mem := rfl
@[simp] theorem State.dropInput_phase : s.dropInput.phase = s.phase := rfl
@[simp] theorem State.dropInput_tsSample : s.dropInput.tsSample = s.tsSample := rfl
@[simp] theorem State.dropInput_wallclock : s.dropInput.wallclock = s.wallclock := rfl
@[simp] theorem State.dropInput_rst : s.dropInput.rst = s.rst := rfl
@[simp] theorem State.dropInput_resp : s.dropInput.resp = s.resp := rfl
@[simp] theorem State.dropInput_inputs : s.dropInput.inputs = s.inputs.tail := rfl

@[simp] theorem State.putDecoding_ie (d : Decoding) : (s.putDecoding d).ie = s.ie := rfl
@[simp] theorem State.putDecoding_cmd (d : Decoding) : (s.putDecoding d).cmd = s.cmd := rfl
@[simp] theorem State.putDecoding_status (d : Decoding) : (s.putDecoding d).status = s.status := rfl
@[simp] theorem State.putDecoding_inLen (d : Decoding) : (s.putDecoding d).inLen = s.inLen := rfl
@[simp] theorem State.putDecoding_keyLen (d : Decoding) : (s.putDecoding d).keyLen = BitVec.ofNat 16 d.out.length := rfl
@[simp] theorem State.putDecoding_digits (d : Decoding) : (s.putDecoding d).digits = s.digits := rfl
@[simp] theorem State.putDecoding_timeStep (d : Decoding) : (s.putDecoding d).timeStep = s.timeStep := rfl
@[simp] theorem State.putDecoding_timestampLo (d : Decoding) : (s.putDecoding d).timestampLo = s.timestampLo := rfl
@[simp] theorem State.putDecoding_timestampHi (d : Decoding) : (s.putDecoding d).timestampHi = s.timestampHi := rfl
@[simp] theorem State.putDecoding_counterLo (d : Decoding) : (s.putDecoding d).counterLo = s.counterLo := rfl
@[simp] theorem State.putDecoding_counterHi (d : Decoding) : (s.putDecoding d).counterHi = s.counterHi := rfl
@[simp] theorem State.putDecoding_secRemain (d : Decoding) : (s.putDecoding d).secRemain = s.secRemain := rfl
@[simp] theorem State.putDecoding_offset (d : Decoding) : (s.putDecoding d).offset = s.offset := rfl
@[simp] theorem State.putDecoding_binary (d : Decoding) : (s.putDecoding d).binary = s.binary := rfl
@[simp] theorem State.putDecoding_code (d : Decoding) : (s.putDecoding d).code = s.code := rfl
@[simp] theorem State.putDecoding_decValid (d : Decoding) : (s.putDecoding d).decValid = BitVec.ofNat 9 d.nvalid := rfl
@[simp] theorem State.putDecoding_decDropped (d : Decoding) : (s.putDecoding d).decDropped = BitVec.ofNat 9 d.ndropped := rfl
@[simp] theorem State.putDecoding_decTail (d : Decoding) : (s.putDecoding d).decTail = BitVec.ofNat 3 d.tail := rfl
@[simp] theorem State.putDecoding_mem (d : Decoding) : (s.putDecoding d).mem = (s.fillBuf .keyBuf d.out).mem := by simp only [State.putDecoding]
@[simp] theorem State.putDecoding_phase (d : Decoding) : (s.putDecoding d).phase = s.phase := rfl
@[simp] theorem State.putDecoding_tsSample (d : Decoding) : (s.putDecoding d).tsSample = s.tsSample := rfl
@[simp] theorem State.putDecoding_wallclock (d : Decoding) : (s.putDecoding d).wallclock = s.wallclock := rfl
@[simp] theorem State.putDecoding_rst (d : Decoding) : (s.putDecoding d).rst = s.rst := rfl
@[simp] theorem State.putDecoding_resp (d : Decoding) : (s.putDecoding d).resp = s.resp := rfl
@[simp] theorem State.putDecoding_inputs (d : Decoding) : (s.putDecoding d).inputs = s.inputs := rfl

@[simp] theorem State.putDigest_ie (d : List Byte) : (s.putDigest d).ie = s.ie := rfl
@[simp] theorem State.putDigest_cmd (d : List Byte) : (s.putDigest d).cmd = s.cmd := rfl
@[simp] theorem State.putDigest_status (d : List Byte) : (s.putDigest d).status = s.status := rfl
@[simp] theorem State.putDigest_inLen (d : List Byte) : (s.putDigest d).inLen = s.inLen := rfl
@[simp] theorem State.putDigest_keyLen (d : List Byte) : (s.putDigest d).keyLen = s.keyLen := rfl
@[simp] theorem State.putDigest_digits (d : List Byte) : (s.putDigest d).digits = s.digits := rfl
@[simp] theorem State.putDigest_timeStep (d : List Byte) : (s.putDigest d).timeStep = s.timeStep := rfl
@[simp] theorem State.putDigest_timestampLo (d : List Byte) : (s.putDigest d).timestampLo = s.timestampLo := rfl
@[simp] theorem State.putDigest_timestampHi (d : List Byte) : (s.putDigest d).timestampHi = s.timestampHi := rfl
@[simp] theorem State.putDigest_counterLo (d : List Byte) : (s.putDigest d).counterLo = s.counterLo := rfl
@[simp] theorem State.putDigest_counterHi (d : List Byte) : (s.putDigest d).counterHi = s.counterHi := rfl
@[simp] theorem State.putDigest_secRemain (d : List Byte) : (s.putDigest d).secRemain = s.secRemain := rfl
@[simp] theorem State.putDigest_offset (d : List Byte) : (s.putDigest d).offset = s.offset := rfl
@[simp] theorem State.putDigest_binary (d : List Byte) : (s.putDigest d).binary = s.binary := rfl
@[simp] theorem State.putDigest_code (d : List Byte) : (s.putDigest d).code = s.code := rfl
@[simp] theorem State.putDigest_decValid (d : List Byte) : (s.putDigest d).decValid = s.decValid := rfl
@[simp] theorem State.putDigest_decDropped (d : List Byte) : (s.putDigest d).decDropped = s.decDropped := rfl
@[simp] theorem State.putDigest_decTail (d : List Byte) : (s.putDigest d).decTail = s.decTail := rfl
@[simp] theorem State.putDigest_mem (d : List Byte) : (s.putDigest d).mem = (s.fillBuf .digest d).mem := rfl
@[simp] theorem State.putDigest_phase (d : List Byte) : (s.putDigest d).phase = s.phase := rfl
@[simp] theorem State.putDigest_tsSample (d : List Byte) : (s.putDigest d).tsSample = s.tsSample := rfl
@[simp] theorem State.putDigest_wallclock (d : List Byte) : (s.putDigest d).wallclock = s.wallclock := rfl
@[simp] theorem State.putDigest_rst (d : List Byte) : (s.putDigest d).rst = s.rst := rfl
@[simp] theorem State.putDigest_resp (d : List Byte) : (s.putDigest d).resp = s.resp := rfl
@[simp] theorem State.putDigest_inputs (d : List Byte) : (s.putDigest d).inputs = s.inputs := rfl

@[simp] theorem State.putReduction_ie (r : Reduction) : (s.putReduction r).ie = s.ie := rfl
@[simp] theorem State.putReduction_cmd (r : Reduction) : (s.putReduction r).cmd = s.cmd := rfl
@[simp] theorem State.putReduction_status (r : Reduction) : (s.putReduction r).status = s.status := rfl
@[simp] theorem State.putReduction_inLen (r : Reduction) : (s.putReduction r).inLen = s.inLen := rfl
@[simp] theorem State.putReduction_keyLen (r : Reduction) : (s.putReduction r).keyLen = s.keyLen := rfl
@[simp] theorem State.putReduction_digits (r : Reduction) : (s.putReduction r).digits = s.digits := rfl
@[simp] theorem State.putReduction_timeStep (r : Reduction) : (s.putReduction r).timeStep = s.timeStep := rfl
@[simp] theorem State.putReduction_timestampLo (r : Reduction) : (s.putReduction r).timestampLo = s.timestampLo := rfl
@[simp] theorem State.putReduction_timestampHi (r : Reduction) : (s.putReduction r).timestampHi = s.timestampHi := rfl
@[simp] theorem State.putReduction_counterLo (r : Reduction) : (s.putReduction r).counterLo = s.counterLo := rfl
@[simp] theorem State.putReduction_counterHi (r : Reduction) : (s.putReduction r).counterHi = s.counterHi := rfl
@[simp] theorem State.putReduction_secRemain (r : Reduction) : (s.putReduction r).secRemain = s.secRemain := rfl
@[simp] theorem State.putReduction_offset (r : Reduction) : (s.putReduction r).offset = BitVec.ofNat 4 r.offset := rfl
@[simp] theorem State.putReduction_binary (r : Reduction) : (s.putReduction r).binary = BitVec.ofNat 31 r.binary := rfl
@[simp] theorem State.putReduction_code (r : Reduction) : (s.putReduction r).code = BitVec.ofNat 32 r.code := rfl
@[simp] theorem State.putReduction_decValid (r : Reduction) : (s.putReduction r).decValid = s.decValid := rfl
@[simp] theorem State.putReduction_decDropped (r : Reduction) : (s.putReduction r).decDropped = s.decDropped := rfl
@[simp] theorem State.putReduction_decTail (r : Reduction) : (s.putReduction r).decTail = s.decTail := rfl
@[simp] theorem State.putReduction_mem (r : Reduction) : (s.putReduction r).mem = (s.fillBuf .codeChars r.chars).mem := rfl
@[simp] theorem State.putReduction_phase (r : Reduction) : (s.putReduction r).phase = s.phase := rfl
@[simp] theorem State.putReduction_tsSample (r : Reduction) : (s.putReduction r).tsSample = s.tsSample := rfl
@[simp] theorem State.putReduction_wallclock (r : Reduction) : (s.putReduction r).wallclock = s.wallclock := rfl
@[simp] theorem State.putReduction_rst (r : Reduction) : (s.putReduction r).rst = s.rst := rfl
@[simp] theorem State.putReduction_resp (r : Reduction) : (s.putReduction r).resp = s.resp := rfl
@[simp] theorem State.putReduction_inputs (r : Reduction) : (s.putReduction r).inputs = s.inputs := rfl

@[simp] theorem State.putWindow_ie (x : Bool) : (s.putWindow x).ie = s.ie := by cases x <;> rfl
@[simp] theorem State.putWindow_cmd (x : Bool) : (s.putWindow x).cmd = s.cmd := by cases x <;> rfl
@[simp] theorem State.putWindow_status (x : Bool) : (s.putWindow x).status = s.status := by cases x <;> rfl
@[simp] theorem State.putWindow_inLen (x : Bool) : (s.putWindow x).inLen = s.inLen := by cases x <;> rfl
@[simp] theorem State.putWindow_keyLen (x : Bool) : (s.putWindow x).keyLen = s.keyLen := by cases x <;> rfl
@[simp] theorem State.putWindow_digits (x : Bool) : (s.putWindow x).digits = s.digits := by cases x <;> rfl
@[simp] theorem State.putWindow_timeStep (x : Bool) : (s.putWindow x).timeStep = s.timeStep := by cases x <;> rfl
@[simp] theorem State.putWindow_timestampLo (x : Bool) : (s.putWindow x).timestampLo = if x then s.timestampLo else s.tsSample.extractLsb' 0 32 := by cases x <;> rfl
@[simp] theorem State.putWindow_timestampHi (x : Bool) : (s.putWindow x).timestampHi = if x then s.timestampHi else s.tsSample.extractLsb' 32 32 := by cases x <;> rfl
@[simp] theorem State.putWindow_counterLo (x : Bool) : (s.putWindow x).counterLo = (windowCounter (s.timeOperand x) s.timeStep).extractLsb' 0 32 := by cases x <;> rfl
@[simp] theorem State.putWindow_counterHi (x : Bool) : (s.putWindow x).counterHi = (windowCounter (s.timeOperand x) s.timeStep).extractLsb' 32 32 := by cases x <;> rfl
@[simp] theorem State.putWindow_secRemain (x : Bool) : (s.putWindow x).secRemain = windowRemain (s.timeOperand x) s.timeStep := by cases x <;> rfl
@[simp] theorem State.putWindow_offset (x : Bool) : (s.putWindow x).offset = s.offset := by cases x <;> rfl
@[simp] theorem State.putWindow_binary (x : Bool) : (s.putWindow x).binary = s.binary := by cases x <;> rfl
@[simp] theorem State.putWindow_code (x : Bool) : (s.putWindow x).code = s.code := by cases x <;> rfl
@[simp] theorem State.putWindow_decValid (x : Bool) : (s.putWindow x).decValid = s.decValid := by cases x <;> rfl
@[simp] theorem State.putWindow_decDropped (x : Bool) : (s.putWindow x).decDropped = s.decDropped := by cases x <;> rfl
@[simp] theorem State.putWindow_decTail (x : Bool) : (s.putWindow x).decTail = s.decTail := by cases x <;> rfl
@[simp] theorem State.putWindow_mem (x : Bool) : (s.putWindow x).mem = s.mem := by cases x <;> rfl
@[simp] theorem State.putWindow_phase (x : Bool) : (s.putWindow x).phase = s.phase := by cases x <;> rfl
@[simp] theorem State.putWindow_tsSample (x : Bool) : (s.putWindow x).tsSample = s.tsSample := by cases x <;> rfl
@[simp] theorem State.putWindow_wallclock (x : Bool) : (s.putWindow x).wallclock = s.wallclock := by cases x <;> rfl
@[simp] theorem State.putWindow_rst (x : Bool) : (s.putWindow x).rst = s.rst := by cases x <;> rfl
@[simp] theorem State.putWindow_resp (x : Bool) : (s.putWindow x).resp = s.resp := by cases x <;> rfl
@[simp] theorem State.putWindow_inputs (x : Bool) : (s.putWindow x).inputs = s.inputs := by cases x <;> rfl

@[simp] theorem State.clearData_ie : s.clearData.ie = s.ie := rfl
@[simp] theorem State.clearData_cmd : s.clearData.cmd = s.cmd := rfl
@[simp] theorem State.clearData_status : s.clearData.status = s.status := rfl
@[simp] theorem State.clearData_inLen : s.clearData.inLen = 0 := rfl
@[simp] theorem State.clearData_keyLen : s.clearData.keyLen = 0 := rfl
@[simp] theorem State.clearData_digits : s.clearData.digits = s.digits := rfl
@[simp] theorem State.clearData_timeStep : s.clearData.timeStep = s.timeStep := rfl
@[simp] theorem State.clearData_timestampLo : s.clearData.timestampLo = 0 := rfl
@[simp] theorem State.clearData_timestampHi : s.clearData.timestampHi = 0 := rfl
@[simp] theorem State.clearData_counterLo : s.clearData.counterLo = 0 := rfl
@[simp] theorem State.clearData_counterHi : s.clearData.counterHi = 0 := rfl
@[simp] theorem State.clearData_secRemain : s.clearData.secRemain = 0 := rfl
@[simp] theorem State.clearData_offset : s.clearData.offset = 0 := rfl
@[simp] theorem State.clearData_binary : s.clearData.binary = 0 := rfl
@[simp] theorem State.clearData_code : s.clearData.code = 0 := rfl
@[simp] theorem State.clearData_decValid : s.clearData.decValid = 0 := rfl
@[simp] theorem State.clearData_decDropped : s.clearData.decDropped = 0 := rfl
@[simp] theorem State.clearData_decTail : s.clearData.decTail = 0 := rfl
@[simp] theorem State.clearData_mem : s.clearData.mem = Memory.clearBufs s.mem := by simp only [State.clearData]
@[simp] theorem State.clearData_phase : s.clearData.phase = s.phase := rfl
@[simp] theorem State.clearData_tsSample : s.clearData.tsSample = s.tsSample := rfl
@[simp] theorem State.clearData_wallclock : s.clearData.wallclock = s.wallclock := rfl
@[simp] theorem State.clearData_rst : s.clearData.rst = s.rst := rfl
@[simp] theorem State.clearData_resp : s.clearData.resp = s.resp := rfl
@[simp] theorem State.clearData_inputs : s.clearData.inputs = s.inputs := rfl

@[simp] theorem State.setCounter_timestamp (v : Dword) : (s.setCounter v).timestamp = s.timestamp := rfl
@[simp] theorem State.setCounter_timeOperand (v : Dword) (y : Bool) : (s.setCounter v).timeOperand y = s.timeOperand y := rfl
@[simp] theorem State.setCounter_byteOf (v : Dword) (c : Buf) (k : Nat) : (s.setCounter v).byteOf c k = s.byteOf c k := rfl
@[simp] theorem State.setCounter_bytesOf (v : Dword) (c : Buf) (k : Nat) : (s.setCounter v).bytesOf c k = s.bytesOf c k := rfl
@[simp] theorem State.setCounter_secret (v : Dword) : (s.setCounter v).secret = s.secret := rfl
@[simp] theorem State.setCounter_key (v : Dword) : (s.setCounter v).key = s.key := rfl
@[simp] theorem State.setCounter_digest (v : Dword) : (s.setCounter v).digest = s.digest := rfl
@[simp] theorem State.setTimestamp_counter (v : Dword) : (s.setTimestamp v).counter = s.counter := rfl
@[simp] theorem State.setTimestamp_byteOf (v : Dword) (c : Buf) (k : Nat) : (s.setTimestamp v).byteOf c k = s.byteOf c k := rfl
@[simp] theorem State.setTimestamp_bytesOf (v : Dword) (c : Buf) (k : Nat) : (s.setTimestamp v).bytesOf c k = s.bytesOf c k := rfl
@[simp] theorem State.setTimestamp_secret (v : Dword) : (s.setTimestamp v).secret = s.secret := rfl
@[simp] theorem State.setTimestamp_key (v : Dword) : (s.setTimestamp v).key = s.key := rfl
@[simp] theorem State.setTimestamp_digest (v : Dword) : (s.setTimestamp v).digest = s.digest := rfl
@[simp] theorem State.fillBuf_counter (b : Buf) (v : List Byte) : (s.fillBuf b v).counter = s.counter := rfl
@[simp] theorem State.fillBuf_timestamp (b : Buf) (v : List Byte) : (s.fillBuf b v).timestamp = s.timestamp := rfl
@[simp] theorem State.fillBuf_timeOperand (b : Buf) (v : List Byte) (y : Bool) : (s.fillBuf b v).timeOperand y = s.timeOperand y := rfl
@[simp] theorem State.accept_counter (w : Word) : (s.accept w).counter = s.counter := rfl
@[simp] theorem State.accept_timestamp (w : Word) : (s.accept w).timestamp = s.timestamp := rfl
@[simp] theorem State.accept_byteOf (w : Word) (c : Buf) (k : Nat) : (s.accept w).byteOf c k = s.byteOf c k := rfl
@[simp] theorem State.accept_bytesOf (w : Word) (c : Buf) (k : Nat) : (s.accept w).bytesOf c k = s.bytesOf c k := rfl
@[simp] theorem State.accept_secret (w : Word) : (s.accept w).secret = s.secret := rfl
@[simp] theorem State.accept_key (w : Word) : (s.accept w).key = s.key := rfl
@[simp] theorem State.accept_digest (w : Word) : (s.accept w).digest = s.digest := rfl
@[simp] theorem State.raiseCmdError_counter (e : CmdError) : (s.raiseCmdError e).counter = s.counter := rfl
@[simp] theorem State.raiseCmdError_timestamp (e : CmdError) : (s.raiseCmdError e).timestamp = s.timestamp := rfl
@[simp] theorem State.raiseCmdError_timeOperand (e : CmdError) (y : Bool) : (s.raiseCmdError e).timeOperand y = s.timeOperand y := rfl
@[simp] theorem State.raiseCmdError_byteOf (e : CmdError) (c : Buf) (k : Nat) : (s.raiseCmdError e).byteOf c k = s.byteOf c k := rfl
@[simp] theorem State.raiseCmdError_bytesOf (e : CmdError) (c : Buf) (k : Nat) : (s.raiseCmdError e).bytesOf c k = s.bytesOf c k := rfl
@[simp] theorem State.raiseCmdError_secret (e : CmdError) : (s.raiseCmdError e).secret = s.secret := rfl
@[simp] theorem State.raiseCmdError_key (e : CmdError) : (s.raiseCmdError e).key = s.key := rfl
@[simp] theorem State.raiseCmdError_digest (e : CmdError) : (s.raiseCmdError e).digest = s.digest := rfl
@[simp] theorem State.finish_counter : s.finish.counter = s.counter := rfl
@[simp] theorem State.finish_timestamp : s.finish.timestamp = s.timestamp := rfl
@[simp] theorem State.finish_timeOperand (y : Bool) : s.finish.timeOperand y = s.timeOperand y := rfl
@[simp] theorem State.finish_byteOf (c : Buf) (k : Nat) : s.finish.byteOf c k = s.byteOf c k := rfl
@[simp] theorem State.finish_bytesOf (c : Buf) (k : Nat) : s.finish.bytesOf c k = s.bytesOf c k := rfl
@[simp] theorem State.finish_secret : s.finish.secret = s.secret := rfl
@[simp] theorem State.finish_key : s.finish.key = s.key := rfl
@[simp] theorem State.finish_digest : s.finish.digest = s.digest := rfl
@[simp] theorem State.setWign_counter : s.setWign.counter = s.counter := rfl
@[simp] theorem State.setWign_timestamp : s.setWign.timestamp = s.timestamp := rfl
@[simp] theorem State.setWign_timeOperand (y : Bool) : s.setWign.timeOperand y = s.timeOperand y := rfl
@[simp] theorem State.setWign_byteOf (c : Buf) (k : Nat) : s.setWign.byteOf c k = s.byteOf c k := rfl
@[simp] theorem State.setWign_bytesOf (c : Buf) (k : Nat) : s.setWign.bytesOf c k = s.bytesOf c k := rfl
@[simp] theorem State.setWign_secret : s.setWign.secret = s.secret := rfl
@[simp] theorem State.setWign_key : s.setWign.key = s.key := rfl
@[simp] theorem State.setWign_digest : s.setWign.digest = s.digest := rfl
@[simp] theorem State.drive_counter (i : Input) : (s.drive i).counter = s.counter := rfl
@[simp] theorem State.drive_timestamp (i : Input) : (s.drive i).timestamp = s.timestamp := rfl
@[simp] theorem State.drive_timeOperand (i : Input) (y : Bool) : (s.drive i).timeOperand y = s.timeOperand y := rfl
@[simp] theorem State.drive_byteOf (i : Input) (c : Buf) (k : Nat) : (s.drive i).byteOf c k = s.byteOf c k := rfl
@[simp] theorem State.drive_bytesOf (i : Input) (c : Buf) (k : Nat) : (s.drive i).bytesOf c k = s.bytesOf c k := rfl
@[simp] theorem State.drive_secret (i : Input) : (s.drive i).secret = s.secret := rfl
@[simp] theorem State.drive_key (i : Input) : (s.drive i).key = s.key := rfl
@[simp] theorem State.drive_digest (i : Input) : (s.drive i).digest = s.digest := rfl
@[simp] theorem State.dropInput_counter : s.dropInput.counter = s.counter := rfl
@[simp] theorem State.dropInput_timestamp : s.dropInput.timestamp = s.timestamp := rfl
@[simp] theorem State.dropInput_timeOperand (y : Bool) : s.dropInput.timeOperand y = s.timeOperand y := rfl
@[simp] theorem State.dropInput_byteOf (c : Buf) (k : Nat) : s.dropInput.byteOf c k = s.byteOf c k := rfl
@[simp] theorem State.dropInput_bytesOf (c : Buf) (k : Nat) : s.dropInput.bytesOf c k = s.bytesOf c k := rfl
@[simp] theorem State.dropInput_secret : s.dropInput.secret = s.secret := rfl
@[simp] theorem State.dropInput_key : s.dropInput.key = s.key := rfl
@[simp] theorem State.dropInput_digest : s.dropInput.digest = s.digest := rfl
@[simp] theorem State.putDecoding_counter (d : Decoding) : (s.putDecoding d).counter = s.counter := rfl
@[simp] theorem State.putDecoding_timestamp (d : Decoding) : (s.putDecoding d).timestamp = s.timestamp := rfl
@[simp] theorem State.putDecoding_timeOperand (d : Decoding) (y : Bool) : (s.putDecoding d).timeOperand y = s.timeOperand y := rfl
@[simp] theorem State.putDigest_counter (d : List Byte) : (s.putDigest d).counter = s.counter := rfl
@[simp] theorem State.putDigest_timestamp (d : List Byte) : (s.putDigest d).timestamp = s.timestamp := rfl
@[simp] theorem State.putDigest_timeOperand (d : List Byte) (y : Bool) : (s.putDigest d).timeOperand y = s.timeOperand y := rfl
@[simp] theorem State.putReduction_counter (r : Reduction) : (s.putReduction r).counter = s.counter := rfl
@[simp] theorem State.putReduction_timestamp (r : Reduction) : (s.putReduction r).timestamp = s.timestamp := rfl
@[simp] theorem State.putReduction_timeOperand (r : Reduction) (y : Bool) : (s.putReduction r).timeOperand y = s.timeOperand y := rfl

end Sys2Proof.Machine
end

