-- ==== Sys2Proof/Laws/Command.lean ====
section
/-! SUPPORT. One spec lemma per shared operation of the commands: what `validated` answers, which check fails first, the
lengths of what the algorithms answer, and what each meaning does as one equation. -/

namespace Sys2Proof.Machine

/-! ### Validation (R144, R146) -/

/-- The checks of each command past the decoder, in the order of R144. -/
def checksOf : Instr → List CmdError
  | .nop | .clear => []
  | .decode => [.inLen]
  | .hmac => [.keyLen]
  | .reduce => [.digits]
  | .hotp => [.keyLen, .digits]
  | .tcount _ => [.timeStep]
  | .totp _ => [.inLen, .digits, .timeStep]

/-- What each command commits (R145). -/
def commitOf : Instr → State → State
  | .nop => fun s => s
  | .decode => fun s => s.putDecoding (b32decode s.secret)
  | .hmac => fun s => s.putDigest (hmacSha1 s.key (counterMessage s.counter))
  | .reduce => fun s => s.putReduction (reduceDigest s.digest s.digits.toNat)
  | .hotp => State.putHotp
  | .tcount x => fun s => s.putWindow x
  | .totp x => fun s => s.putTotp x
  | .clear => State.clearData

/-- Every meaning is validation of its checks and then its commit. -/
theorem exec_eq_validated (i : Instr) (s : State) : exec i s = validated (checksOf i) (commitOf i) s := by
  cases i <;> rfl

theorem validated_of_fail (cs : List CmdError) (f : State → State) (s : State) (e : CmdError)
    (h : firstFailing cs s = some e) : validated cs f s = .next (s.raiseCmdError e) := by
  simp [validated, h]

theorem validated_of_pass (cs : List CmdError) (f : State → State) (s : State) (h : firstFailing cs s = none) :
    validated cs f s = .next (f s).finish := by
  simp [validated, h]

/-- The first failing check of a command is the row of R144's table that fails first. -/
theorem firstFailing_code (i : Instr) (s : State) :
    (firstFailing (checksOf i) s).map CmdError.code = errorOf i s := by
  have hz : (s.timeStep = 0) ↔ s.timeStep.toNat = 0 := by
    rw [← BitVec.toNat_inj]
    rfl
  cases i <;>
    simp only [checksOf, firstFailing, errorOf, List.find?, CmdError.fails, Config.inMax, Config.keyMax, Config.digitsMax,
      hz, Bool.false_eq_true, false_and, true_and, if_false] <;>
    (repeat' split) <;> simp_all [CmdError.code] <;>
    (have := of_decide_eq_true ‹decide (10 < s.digits.toNat) = true›; omega)

/-- A command whose check fails raises that error (R147). -/
theorem exec_of_error (i : Instr) (s : State) (c : BitVec 4) (h : errorOf i s = some c) :
    exec i s = .next { s with status := s.status.afterError c, phase := .idle } := by
  rw [← firstFailing_code, Option.map_eq_some_iff] at h
  obtain ⟨e, he, rfl⟩ := h
  rw [exec_eq_validated, validated_of_fail _ _ _ _ he]
  rfl

/-- A command whose checks pass commits and completes (R148). -/
theorem exec_of_pass (i : Instr) (s : State) (h : errorOf i s = none) :
    exec i s = .next (commitOf i s).finish := by
  rw [← firstFailing_code, Option.map_eq_none_iff] at h
  rw [exec_eq_validated, validated_of_pass _ _ _ h]

/-- Every command answers a next state: it fails with an error or it completes. -/
theorem exec_cases (i : Instr) (s : State) :
    (∃ c, errorOf i s = some c ∧ exec i s = .next { s with status := s.status.afterError c, phase := .idle }) ∨
      (errorOf i s = none ∧ exec i s = .next (commitOf i s).finish) := by
  cases h : errorOf i s with
  | none => exact .inr ⟨rfl, exec_of_pass i s h⟩
  | some c => exact .inl ⟨c, rfl, exec_of_error i s c h⟩

/-! When the checks of each command pass (R144). -/

theorem errorOf_nop (s : State) : errorOf .nop s = none := by
  simp [errorOf]

theorem errorOf_clear (s : State) : errorOf .clear s = none := by
  simp [errorOf]

theorem errorOf_decode (s : State) : errorOf .decode s = none ↔ s.inLen.toNat ≤ 256 := by
  simp [errorOf]

theorem errorOf_hmac (s : State) : errorOf .hmac s = none ↔ s.keyLen.toNat ≤ 160 := by
  simp [errorOf]

theorem errorOf_reduce (s : State) : errorOf .reduce s = none ↔ 1 ≤ s.digits.toNat ∧ s.digits.toNat ≤ 10 := by
  simp only [errorOf, Bool.false_eq_true, false_and, true_and, if_false]
  split_ifs <;> simp_all <;> omega

theorem errorOf_hotp (s : State) :
    errorOf .hotp s = none ↔ s.keyLen.toNat ≤ 160 ∧ 1 ≤ s.digits.toNat ∧ s.digits.toNat ≤ 10 := by
  simp only [errorOf, Bool.false_eq_true, false_and, true_and, if_false]
  split_ifs <;> simp_all <;> omega

theorem errorOf_tcount (s : State) (x : Bool) : errorOf (.tcount x) s = none ↔ s.timeStep.toNat ≠ 0 := by
  simp only [errorOf, Bool.false_eq_true, false_and, true_and, if_false]
  split_ifs <;> simp_all

theorem errorOf_totp (s : State) (x : Bool) : errorOf (.totp x) s = none ↔
    s.inLen.toNat ≤ 256 ∧ (1 ≤ s.digits.toNat ∧ s.digits.toNat ≤ 10) ∧ s.timeStep.toNat ≠ 0 := by
  simp only [errorOf, Bool.false_eq_true, false_and, true_and, if_false]
  split_ifs <;> simp_all <;> omega

/-! ### Lengths -/

@[simp] theorem Chain.bytes_length (h : Chain) : h.bytes.length = 20 := by
  simp [Chain.bytes]

@[simp] theorem sha1_length (msg : List Byte) : (sha1 msg).length = 20 := by
  simp [sha1]

@[simp] theorem hmacSha1_length (key msg : List Byte) : (hmacSha1 key msg).length = 20 := by
  simp [hmacSha1]

@[simp] theorem b32decode_out_length (s : List Byte) : (b32decode s).out.length = 5 * (indices s).length / 8 := by
  simp [b32decode]

@[simp] theorem b32decode_nvalid (s : List Byte) : (b32decode s).nvalid = (indices s).length := rfl

@[simp] theorem b32decode_ndropped (s : List Byte) : (b32decode s).ndropped = s.length - (indices s).length := rfl

@[simp] theorem b32decode_tail (s : List Byte) : (b32decode s).tail = 5 * (indices s).length % 8 := rfl

theorem indices_length_le (s : List Byte) : (indices s).length ≤ s.length := List.length_filterMap_le _ _

@[simp] theorem State.secret_length (s : State) : s.secret.length = s.inLen.toNat := by
  simp [State.secret, State.bytesOf]

@[simp] theorem State.key_length (s : State) : s.key.length = s.keyLen.toNat := by
  simp [State.key, State.bytesOf]

@[simp] theorem State.digest_length (s : State) : s.digest.length = 20 := by
  simp [State.digest, State.bytesOf, Config.digestBytes]

theorem State.digest_getD (s : State) (k : Nat) (h : k < 20) : s.digest.getD k 0 = s.byteOf .digest k := by
  rw [State.digest, State.bytesOf, Memory.readBytes_getD, if_pos (by simpa [Config.digestBytes] using h)]
  rfl

/-! ### The 64-bit pairs -/

theorem append_extract (v : Dword) : (v.extractLsb' 32 32 ++ v.extractLsb' 0 32 : Dword) = v := by
  ext i hi
  simp only [BitVec.getElem_append, BitVec.getElem_extractLsb']
  split_ifs <;> (rw [BitVec.getLsbD_eq_getElem (by omega)]; congr 1; omega)

@[simp] theorem State.setCounter_counter (s : State) (v : Dword) : (s.setCounter v).counter = v := append_extract v

@[simp] theorem State.setTimestamp_timestamp (s : State) (v : Dword) : (s.setTimestamp v).timestamp = v := append_extract v

/-- What the window arithmetic leaves in `COUNTER` (R241). -/
@[simp] theorem State.putWindow_counter (s : State) (x : Bool) :
    (s.putWindow x).counter = windowCounter (s.timeOperand x) s.timeStep := by
  rw [State.counter, State.putWindow_counterHi, State.putWindow_counterLo]
  exact append_extract _

/-- What the window arithmetic leaves in `TIMESTAMP` (R241): the timestamp used. -/
@[simp] theorem State.putWindow_timestamp (s : State) (x : Bool) : (s.putWindow x).timestamp = s.timeOperand x := by
  cases x
  · exact append_extract _
  · rfl

/-! ### The buffers after each commit -/

theorem State.byteOf_congr_mem (s t : State) (h : s.mem = t.mem) (b : Buf) (k : Nat) : s.byteOf b k = t.byteOf b k := by
  simp [State.byteOf, h]

@[simp] theorem State.digest_putDigest (s : State) (d : List Byte) (h : d.length = 20) : (s.putDigest d).digest = d := by
  refine List.ext_getElem (by simp [h]) fun k h1 h2 => ?_
  have h3 := State.digest_getD (s.putDigest d) k (by omega)
  rw [List.getD_eq_getElem _ _ h1] at h3
  rw [h3, State.putDigest, State.byteOf_fillBuf _ _ _ _ (by simp [Buf.size, Config.digestBytes]; omega),
    List.getD_eq_getElem _ _ h2]

/-- The key a decoding leaves is what it decoded, where it fits the buffer (R163, R166). -/
theorem State.key_putDecoding (s : State) (d : Decoding) (h : d.out.length ≤ 160) : (s.putDecoding d).key = d.out := by
  have hn : (BitVec.ofNat 16 d.out.length).toNat = d.out.length := by
    rw [BitVec.toNat_ofNat, Nat.mod_eq_of_lt (by omega)]
  refine List.ext_getElem (by simp [hn]) fun k h1 h2 => ?_
  simp only [State.key, State.bytesOf, Memory.readBytes, List.getElem_map, List.getElem_range, State.putDecoding_mem]
  rw [State.read_fillBuf, if_pos (by simp only [Buf.size, Config.keyMax]; omega), Nat.add_sub_cancel_left,
    List.getD_eq_getElem _ _ h2]

/-- A secret within `IN_BUF` decodes to at most 160 bytes (R166). -/
theorem b32decode_fits (s : List Byte) (h : s.length ≤ 256) : (b32decode s).out.length ≤ 160 := by
  have := indices_length_le s
  simp
  omega

/-- The byte store stays canonical and inside the buffers when a buffer is filled. -/
theorem State.mem_ok_fillBuf (s : State) (b : Buf) (v : List Byte)
    (h : Memory.wf s.mem ∧ ∀ c ∈ s.mem, ∃ b : Buf, b.holds c.1 = true) :
    Memory.wf (s.fillBuf b v).mem ∧ ∀ c ∈ (s.fillBuf b v).mem, ∃ b : Buf, b.holds c.1 = true := by
  refine ⟨Memory.wf_writeBytes _ _ _ h.1, fun c hc => ?_⟩
  rcases Memory.mem_writeBytes _ _ _ c hc with hc | hc
  · exact ⟨b, (Buf.holds_iff b _).2 (by simpa using hc)⟩
  · exact h.2 c hc

end Sys2Proof.Machine
end

