-- ==== Sys2Proof/Laws/Bus.lean ====
section
/-! SUPPORT. What the window map, a host transaction and a step can do, said once. -/

namespace Sys2Proof.Machine

/-! ### The window map (R31), computed once over the 4096 offsets -/

/-- The offset of a register (R31). -/
def Reg.off (r : Reg) : Nat := ((regMap.find? fun p => p.2 == r).map (·.1)).getD 0

/-- What the map says of one offset, as a test to compute: it reaches nothing exactly when it is misaligned or reserved;
a register is reached at its own offset; a buffer word lies inside its buffer; and the busy-protected places are at the
protected offsets. -/
def mapHolds (off : Nat) : Bool :=
  match placeAt off with
  | none => decide (off % 4 ≠ 0 ∨ (0x04C ≤ off ∧ off < 0x050) ∨ (0x070 ≤ off ∧ off < 0x100) ∨ 0x2A0 ≤ off)
  | some p =>
    decide (¬ (off % 4 ≠ 0 ∨ (0x04C ≤ off ∧ off < 0x050) ∨ (0x070 ≤ off ∧ off < 0x100) ∨ 0x2A0 ≤ off)) &&
    (p.busyProtected == decide (off % 4 = 0 ∧
      (off = 0x008 ∨ (0x010 ≤ off ∧ off < 0x030) ∨ (0x100 ≤ off ∧ off < 0x2A0)))) &&
    match p with
    | .reg r => decide (off = r.off)
    | .buf b => decide (off % 4 = 0 ∧ b.base ≤ off ∧ off + 4 ≤ b.base + b.size)

theorem mapHolds_grid : ∀ i < 64, ∀ j < 64, mapHolds (64 * i + j) = true := by
  decide +kernel

theorem mapHolds_all (off : Nat) (h : off < 4096) : mapHolds off = true := by
  rw [← Nat.div_add_mod off 64]
  exact mapHolds_grid _ (by omega) _ (Nat.mod_lt _ (by decide))

theorem placeAt_eq_none (off : Nat) (h : off < 4096) : placeAt off = none ↔
    (off % 4 ≠ 0 ∨ (0x04C ≤ off ∧ off < 0x050) ∨ (0x070 ≤ off ∧ off < 0x100) ∨ 0x2A0 ≤ off) := by
  have hm := mapHolds_all off h
  unfold mapHolds at hm
  cases hp : placeAt off with
  | none =>
    rw [hp] at hm
    exact ⟨fun _ => of_decide_eq_true hm, fun _ => rfl⟩
  | some p =>
    rw [hp, Bool.and_eq_true, Bool.and_eq_true] at hm
    exact ⟨fun hn => (by cases hn), fun hn => absurd hn (of_decide_eq_true hm.1.1)⟩

theorem placeAt_reg {off : BitVec 12} {r : Reg} (h : placeAt off.toNat = some (.reg r)) : off.toNat = r.off := by
  have hm := mapHolds_all off.toNat off.isLt
  rw [mapHolds, h, Bool.and_eq_true] at hm
  exact of_decide_eq_true hm.2

theorem placeAt_buf {off : BitVec 12} {b : Buf} (h : placeAt off.toNat = some (.buf b)) :
    off.toNat % 4 = 0 ∧ b.base ≤ off.toNat ∧ off.toNat + 4 ≤ b.base + b.size := by
  have hm := mapHolds_all off.toNat off.isLt
  rw [mapHolds, h, Bool.and_eq_true] at hm
  exact of_decide_eq_true hm.2

theorem placeAt_busyProtected {off : BitVec 12} {p : Place} (h : placeAt off.toNat = some p) :
    p.busyProtected = true ↔ protectedOffset off := by
  have hm := mapHolds_all off.toNat off.isLt
  rw [mapHolds, h, Bool.and_eq_true, Bool.and_eq_true, beq_iff_eq] at hm
  rw [hm.1.2, decide_eq_true_iff]
  rfl

/-- A transaction reaches nothing exactly when it is malformed (R276). -/
theorem busTarget_eq_none (off : BitVec 12) (bytes : Nat) : busTarget off bytes = none ↔ malformed off bytes := by
  unfold busTarget malformed
  by_cases hb : bytes = 4
  · simp only [hb, if_true, ne_eq, not_true_eq_false, or_false]
    rw [placeAt_eq_none off.toNat off.isLt]
    tauto
  · simp [hb]

theorem busTarget_some {off : BitVec 12} {bytes : Nat} {p : Place} (h : busTarget off bytes = some p) :
    bytes = 4 ∧ placeAt off.toNat = some p := by
  unfold busTarget at h
  split at h
  · exact ⟨‹_›, h⟩
  · cases h

theorem busTarget_four (off : BitVec 12) : busTarget off 4 = placeAt off.toNat := rfl

/-! ### A host transaction -/

theorem respond_read {s : State} {off : BitVec 12} {p : Place} {free : Word} (h : placeAt off.toNat = some p) :
    s.respond (.read off 4) free = (.okayData (s.busRead p off.toNat free), s) := by
  simp [State.respond, busTarget_four, h]

theorem respond_write {s : State} {off : BitVec 12} {p : Place} {d free : Word} (h : placeAt off.toNat = some p) :
    s.respond (.write off 4 d) free = (.okay, s.busWrite p off.toNat d) := by
  simp [State.respond, busTarget_four, h]

/-- A write to a busy-protected place of a busy engine (R307). -/
theorem busWrite_ignored {s : State} {p : Place} {off : Nat} {d : Word} (hb : s.status.busy = true)
    (hp : p.busyProtected = true) : s.busWrite p off d = s.setWign := by
  simp [State.busWrite, hb, hp]

/-- A write to a register that takes effect. -/
theorem busWrite_reg {s : State} {r : Reg} {off : Nat} {d : Word}
    (h : s.status.busy = false ∨ (Place.reg r).busyProtected = false) : s.busWrite (.reg r) off d = s.writeReg r d := by
  have : (s.status.busy && (Place.reg r).busyProtected) = false := by
    rcases h with h | h <;> simp [h]
  simp [State.busWrite, this]

/-- A write to a buffer word that takes effect. -/
theorem busWrite_buf {s : State} {b : Buf} {off : Nat} {d : Word}
    (h : s.status.busy = false ∨ (Place.buf b).busyProtected = false) : s.busWrite (.buf b) off d = s.writeBuf b off d := by
  have : (s.status.busy && (Place.buf b).busyProtected) = false := by
    rcases h with h | h <;> simp [h]
  simp [State.busWrite, this]

/-- What the host's step does: it faults on a malformed transaction; else a read leaves the state and a write leaves
what `busWrite` leaves, and the port shows the response. -/
theorem hostStep_cases (x : HostTxn) (free : Word) (s : State) :
    (malformed x.off x.bytes ∧ hostStep x free s = .fault (.busError x.off)) ∨
    (∃ off p, x = .read off 4 ∧ placeAt off.toNat = some p ∧
      hostStep x free s = .next { s with resp := some (.okayData (s.busRead p off.toNat free)) }) ∨
    (∃ off p d, x = .write off 4 d ∧ placeAt off.toNat = some p ∧
      hostStep x free s = .next { s.busWrite p off.toNat d with resp := some .okay }) := by
  cases x with
  | read off bytes =>
    cases h : busTarget off bytes with
    | none => exact .inl ⟨(busTarget_eq_none off bytes).1 h, by simp [hostStep, State.respond, h]⟩
    | some p =>
      obtain ⟨rfl, hp⟩ := busTarget_some h
      exact .inr (.inl ⟨off, p, rfl, hp, by simp [hostStep, State.respond, h]⟩)
  | write off bytes d =>
    cases h : busTarget off bytes with
    | none => exact .inl ⟨(busTarget_eq_none off bytes).1 h, by simp [hostStep, State.respond, h]⟩
    | some p =>
      obtain ⟨rfl, hp⟩ := busTarget_some h
      exact .inr (.inr ⟨off, p, d, rfl, hp, by simp [hostStep, State.respond, h]⟩)

/-- What a host write leaves: busy-protected places of a busy engine only set `WIGN`; else the register or buffer word
is written. -/
theorem State.busWrite_cases (s : State) (p : Place) (off : Nat) (d : Word) :
    (s.status.busy = true ∧ p.busyProtected = true ∧ s.busWrite p off d = s.setWign) ∨
    ((s.status.busy = false ∨ p.busyProtected = false) ∧
      ((∃ r, p = .reg r ∧ s.busWrite p off d = s.writeReg r d) ∨
        ∃ b, p = .buf b ∧ s.busWrite p off d = s.writeBuf b off d)) := by
  by_cases h : (s.status.busy && p.busyProtected) = true
  · rw [Bool.and_eq_true] at h
    exact .inl ⟨h.1, h.2, by simp [State.busWrite, h]⟩
  · have h' : s.status.busy = false ∨ p.busyProtected = false := by
      cases hb : s.status.busy <;> simp_all
    refine .inr ⟨h', ?_⟩
    cases p with
    | reg r => exact .inl ⟨r, rfl, by simp only [State.busWrite, h]; rfl⟩
    | buf b => exact .inr ⟨b, rfl, by simp only [State.busWrite, h]; rfl⟩

/-! ### A step -/

/-- What the engine does: nothing while idle, the running command, or the failure of an illegal word. -/
theorem engineStep_cases (s : State) :
    (s.phase = .idle ∧ engineStep s = .next s) ∨
    (∃ op w i, s.phase = .running op w ∧ decodeCmd w = .legal i ∧ engineStep s = exec i s) ∨
    (∃ op w why, s.phase = .running op w ∧ decodeCmd w = .illegal why ∧
      engineStep s = .next (s.raiseCmdError .illegalCmd)) := by
  cases h : s.phase with
  | idle => exact .inl ⟨rfl, by simp [engineStep, h]⟩
  | running op w =>
    cases hd : decodeCmd w with
    | legal i => exact .inr (.inl ⟨op, w, i, rfl, hd, by simp [engineStep, h, hd]⟩)
    | illegal why => exact .inr (.inr ⟨op, w, why, rfl, hd, by simp [engineStep, h, hd]⟩)

/-- What a step does: a reset, nothing, the engine's step or the host's. -/
theorem step_cases (s : State) :
    (s.nextInput.rst = true ∧ step s = .next ((s.dropInput.drive s.nextInput).applyReset s.nextInput)) ∨
    (s.nextInput.rst = false ∧ s.nextInput.event = .quiet ∧ step s = .next (s.dropInput.drive s.nextInput)) ∨
    (s.nextInput.rst = false ∧ s.nextInput.event = .engine ∧ step s = engineStep (s.dropInput.drive s.nextInput)) ∨
    (∃ x, s.nextInput.rst = false ∧ s.nextInput.event = .host x ∧
      step s = hostStep x s.nextInput.freeData (s.dropInput.drive s.nextInput)) := by
  unfold step react
  by_cases h : s.nextInput.rst = true
  · exact .inl ⟨h, by simp [h]⟩
  · simp only [Bool.not_eq_true] at h
    cases he : s.nextInput.event with
    | quiet => exact .inr (.inl ⟨h, rfl, by simp [h]⟩)
    | engine => exact .inr (.inr (.inl ⟨h, rfl, by simp [h]⟩))
    | host x => exact .inr (.inr (.inr ⟨x, h, rfl, by simp [h]⟩))

/-- A run whose first step answers a next state goes on from that state. -/
theorem run_succ (M : Host.Core) (n : Nat) (s t : M.State) (h : M.step s = .next t) : M.run (n + 1) s = M.run n t := by
  rw [Host.Core.run, h]

/-- `run_succ` for this machine. -/
theorem core_run_succ (n : Nat) (s t : State) (h : step s = .next t) :
    Sys2Proof.core.run (n + 1) s = Sys2Proof.core.run n t :=
  run_succ Sys2Proof.core n s t h

theorem core_run_zero (s : State) : Sys2Proof.core.run 0 s = .next s := rfl

end Sys2Proof.Machine
end

