-- ==== Sys2Proof/Laws/PerInstr.lean ====
section
/-! SUPPORT. The family `Encoding`: what holds of every command as syntax, one lemma per constructor. -/

namespace Sys2Proof.Laws.Encoding

/-- A command's word is legal by R113, decodes to the command by R114, and has the opcode of the command in bits [3:0]
and its `EXPLICIT_TS` in bit 8 (R110). -/
def Statement (i : Instr) : Prop :=
  legalWord (encode i) = true ∧ decodeCmd (encode i) = .legal i ∧ (opField (encode i)).setWidth 32 = i.opcode ∧
    tsField (encode i) = i.explicitTs

theorem nop : Statement .nop := by unfold Statement; decide

theorem decode : Statement .decode := by unfold Statement; decide

theorem hmac : Statement .hmac := by unfold Statement; decide

theorem reduce : Statement .reduce := by unfold Statement; decide

theorem hotp : Statement .hotp := by unfold Statement; decide

theorem tcount (explicitTs : Bool) : Statement (.tcount explicitTs) := by
  unfold Statement
  cases explicitTs <;> decide

theorem totp (explicitTs : Bool) : Statement (.totp explicitTs) := by
  unfold Statement
  cases explicitTs <;> decide

theorem clear : Statement .clear := by unfold Statement; decide

end Sys2Proof.Laws.Encoding
end

