-- ==== Sys2Proof/Tests/Slice0.lean ====
section
/-! SUPPORT. Tests of the model against the vectors of spec/95 and the encodings of 30_encoding.md, and for every
obligation with hypotheses a witness that meets them. Expected values come from the spec's text. -/

open Sys2Proof Sys2Proof.Machine

namespace Sys2Proof.Tests

/-! ### Helpers -/

/-- The outcome is a next state with the property. -/
def nextWith (o : Host.Outcome State Fault Refusal) (p : State → Bool) : Bool :=
  match o with
  | .next t => p t
  | .fault _ | .refused _ => false

/-- The outcome is the fault. -/
def faultsWith (o : Host.Outcome State Fault Refusal) (f : Fault) : Bool :=
  match o with
  | .fault g => decide (g = f)
  | .next _ | .refused _ => false

/-- The bytes of `b` from byte 0 on are `v`. -/
def bufIs (t : State) (b : Buf) (v : List Byte) : Bool := decide (t.bytesOf b v.length = v)

/-- A state with `STATUS.BUSY` set and the word running. -/
def running (w : Word) (s : State) : State :=
  { s with cmd := w, phase := .running (opField w) w, status := { s.status with busy := true } }

/-- A state whose next input is one engine step or host transaction, with `WALLCLOCK` at 59. -/
def feed (l : List Event) (s : State) : State :=
  { s with inputs := l.map fun e =>
      { wallclock := 59, rst := false, freeData := 0xDEADBEEF, freeSample := 7, event := e } }

/-- The reset state with the key `K20` of spec/95. -/
def withKey : State :=
  { State.reset.fillBuf .keyBuf (ascii "12345678901234567890") with keyLen := 20 }

/-- The reset state with the secret `S32` of spec/95. -/
def withSecret : State :=
  { State.reset.fillBuf .inBuf (ascii "GEZDGNBVGY3TQOJQGEZDGNBVGY3TQOJQ") with inLen := 32 }

/-! ### Well-formedness: one ill-formed term for each check (R113) -/

theorem test_wf_refuses_reserved_opcode : legalWord 0x00000008 = false := by decide

theorem test_wf_refuses_low_reserved_bit : legalWord 0x00000011 = false := by decide

theorem test_wf_refuses_high_reserved_bit : legalWord 0x00000206 = false := by decide

theorem test_wf_refuses_explicit_ts_on_decode : legalWord 0x00000101 = false := by decide

theorem test_wf_refuses_low_reserved_bit_on_totp : legalWord 0x00000016 = false := by decide

theorem test_wf_accepts_totp_ts : legalWord 0x00000106 = true := by decide

/-! ### Decoding: each command's word written out from R110 to R112, bits [31:9], bit 8, bits [7:4], bits [3:0] -/

theorem test_decode_nop : decodeCmd ((0 : BitVec 23) ++ (0b0 : BitVec 1) ++ (0b0000 : BitVec 4) ++ (0b0000 : BitVec 4)) = .legal .nop := by decide

theorem test_decode_decode : decodeCmd ((0 : BitVec 23) ++ (0b0 : BitVec 1) ++ (0b0000 : BitVec 4) ++ (0b0001 : BitVec 4)) = .legal .decode := by decide

theorem test_decode_hmac : decodeCmd ((0 : BitVec 23) ++ (0b0 : BitVec 1) ++ (0b0000 : BitVec 4) ++ (0b0010 : BitVec 4)) = .legal .hmac := by decide

theorem test_decode_reduce : decodeCmd ((0 : BitVec 23) ++ (0b0 : BitVec 1) ++ (0b0000 : BitVec 4) ++ (0b0011 : BitVec 4)) = .legal .reduce := by decide

theorem test_decode_hotp : decodeCmd ((0 : BitVec 23) ++ (0b0 : BitVec 1) ++ (0b0000 : BitVec 4) ++ (0b0100 : BitVec 4)) = .legal .hotp := by decide

theorem test_decode_tcount : decodeCmd ((0 : BitVec 23) ++ (0b0 : BitVec 1) ++ (0b0000 : BitVec 4) ++ (0b0101 : BitVec 4)) = .legal (.tcount false) := by decide

theorem test_decode_tcount_ts : decodeCmd ((0 : BitVec 23) ++ (0b1 : BitVec 1) ++ (0b0000 : BitVec 4) ++ (0b0101 : BitVec 4)) = .legal (.tcount true) := by decide

theorem test_decode_totp : decodeCmd ((0 : BitVec 23) ++ (0b0 : BitVec 1) ++ (0b0000 : BitVec 4) ++ (0b0110 : BitVec 4)) = .legal (.totp false) := by decide

theorem test_decode_totp_ts : decodeCmd ((0 : BitVec 23) ++ (0b1 : BitVec 1) ++ (0b0000 : BitVec 4) ++ (0b0110 : BitVec 4)) = .legal (.totp true) := by decide

theorem test_decode_clear : decodeCmd ((0 : BitVec 23) ++ (0b0 : BitVec 1) ++ (0b0000 : BitVec 4) ++ (0b0111 : BitVec 4)) = .legal .clear := by decide

theorem test_decode_reserved_opcode : decodeCmd ((0 : BitVec 23) ++ (0b0 : BitVec 1) ++ (0b0000 : BitVec 4) ++ (0b1000 : BitVec 4)) = .illegal .reservedOpcode := by decide

theorem test_decode_clear_with_ts : decodeCmd ((0 : BitVec 23) ++ (0b1 : BitVec 1) ++ (0b0000 : BitVec 4) ++ (0b0111 : BitVec 4)) = .illegal .explicitTsNotAllowed := by decide

theorem test_table_row : decodeTableWord 32 0x106 = some (.totp true) := by decide

/-! ### The commands -/

/-- V-CMD-1. -/
theorem test_nop_status :
    nextWith (engineStep (running 0 State.reset)) (fun t => decide (t.readReg .status = 2)) = true := by decide

/-- V-SRC-4: the three `!` are dropped. -/
theorem test_decode_drops_characters :
    nextWith (exec .decode { State.reset.fillBuf .inBuf (ascii "JBSWY3DPEB!!!") with inLen := 13 })
      (fun t => bufIs t .keyBuf [0x48, 0x65, 0x6C, 0x6C, 0x6F, 0x20, 0x00] && decide (t.keyLen = 6) &&
        decide (t.decValid = 10) && decide (t.decDropped = 3) && decide (t.decTail = 2)) = true := by decide +kernel

/-- V-B32-19: 257 characters are too many, and the key stays. -/
theorem test_decode_too_long :
    nextWith (exec .decode { withKey with inLen := 257 })
      (fun t => decide (t.readReg .status = 0x206) && bufIs t .keyBuf (ascii "12345678901234567890")) = true := by
  decide +kernel

/-- V-SRC-1 and V-HMAC-10. -/
theorem test_hmac_digest :
    nextWith (exec .hmac withKey)
      (fun t => decide (t.valueAt (.buf .digest) 0x050 = 0x18CF93CC) &&
        decide (t.valueAt (.buf .digest) 0x060 = 0xB0E4CDB7)) = true := by decide +kernel

/-- V-HMAC-5: a key of 65 bytes is hashed first. -/
theorem test_hmac_long_key :
    nextWith (exec .hmac { State.reset.fillBuf .keyBuf (List.replicate 65 0x4B) with keyLen := 65 })
      (fun t => bufIs t .digest [0x3B, 0x90, 0xB5, 0x35, 0x13, 0xBA, 0xF6, 0x61, 0x88, 0xD3, 0x28, 0x86, 0x91, 0x20,
        0x7A, 0x26, 0xD4, 0x44, 0xF4, 0xE4]) = true := by decide +kernel

/-- V-RED-4: offset 15, the top bit masked. -/
theorem test_reduce_masks_the_top_bit :
    nextWith (exec .reduce (State.reset.fillBuf .digest [0x95, 0x56, 0x78, 0x12, 0xB8, 0x21, 0xE9, 0xA8, 0x68, 0x6E,
        0xE9, 0x94, 0x5A, 0x9B, 0x7D, 0x8F, 0x98, 0xC5, 0x00, 0x6F]))
      (fun t => decide (t.offset = 15) && decide (t.binary = 0x0F98C500) &&
        bufIs t .codeChars (ascii "670144" ++ [0, 0, 0, 0, 0, 0])) = true := by decide +kernel

/-- V-RED-11: 11 digits are too many. -/
theorem test_reduce_too_many_digits :
    nextWith (exec .reduce { State.reset with digits := 11 })
      (fun t => decide (t.readReg .status = 0x406) && bufIs t .codeChars [0, 0]) = true := by decide +kernel

/-- V-SRC-2. -/
theorem test_hotp_code :
    nextWith (exec .hotp { withKey with counterLo := 1 })
      (fun t => decide (t.code = 287082) && decide (t.offset = 11) && decide (t.binary = 0x41397EEA)) = true := by
  decide +kernel

/-- V-HOTP-13: the key length is checked before the digits. -/
theorem test_hotp_error_order :
    nextWith (exec .hotp { State.reset with keyLen := 200, digits := 0 })
      (fun t => decide (t.readReg .status = 0x306)) = true := by decide

/-- V-TC-8: the largest step. -/
theorem test_tcount_largest_step :
    nextWith (exec (.tcount true)
        { State.reset with timestampHi := 0xFFFFFFFF, timestampLo := 0xFFFFFFFF, timeStep := 0xFFFFFFFF })
      (fun t => decide (t.counterHi = 1) && decide (t.counterLo = 1) && decide (t.secRemain = 0xFFFFFFFF)) = true := by
  decide +kernel

/-- V-TC-14: the wall clock 59 is sampled at acceptance, and `TIMESTAMP` is overwritten. -/
theorem test_tcount_wall_clock :
    nextWith (step (({ State.reset with wallclock := 59, timestampLo := 7 } : State).withFetchWord 32 5))
      (fun t => decide (t.timestampLo = 59) && decide (t.counterLo = 1) && decide (t.secRemain = 1)) = true := by
  decide +kernel

/-- V-SRC-3 and V-TOTP-10: TOTP does not check `KEY_LEN`. -/
theorem test_totp_code :
    nextWith (exec (.totp true) { withSecret with digits := 8, timestampLo := 59, keyLen := 0xFFFF })
      (fun t => decide (t.code = 94287082) && bufIs t .codeChars (ascii "94287082") && decide (t.counterLo = 1) &&
        decide (t.secRemain = 1) && decide (t.keyLen = 20)) = true := by decide +kernel

/-- V-TOTP-9: digits are checked before the time step. -/
theorem test_totp_error_order :
    nextWith (exec (.totp true) { State.reset with digits := 0, timeStep := 0 })
      (fun t => decide (t.readReg .status = 0x406)) = true := by decide

/-- Program P6: CLEAR zeroes the key and keeps `DIGITS`. -/
theorem test_clear_key :
    nextWith (exec .clear { withKey with digits := 8 })
      (fun t => bufIs t .keyBuf (List.replicate 20 0) && decide (t.keyLen = 0) && decide (t.digits = 8)) = true := by
  decide +kernel

/-- V-CMD-4: nothing is decoded, and `CMD` holds the failing word. -/
theorem test_illegal_word :
    nextWith (engineStep (running 0x11 withSecret))
      (fun t => decide (t.readReg .status = 0x106) && decide (t.readReg .cmd = 0x11) && decide (t.keyLen = 0)) = true := by
  decide +kernel

/-- R36: one value for each field of `STATUS`, at its bits. -/
theorem test_status_fields :
    (({ busy := true, done := false, err := false, wign := false, errCode := 0 } : Status).word = 0x001) ∧
      (({ busy := false, done := true, err := false, wign := false, errCode := 0 } : Status).word = 0x002) ∧
      (({ busy := false, done := false, err := true, wign := false, errCode := 0 } : Status).word = 0x004) ∧
      (({ busy := false, done := false, err := false, wign := true, errCode := 0 } : Status).word = 0x008) ∧
      (({ busy := false, done := false, err := false, wign := false, errCode := 5 } : Status).word = 0x500) := by decide

/-! ### The bus -/

/-- V-BUS-5. -/
theorem test_id_reads :
    nextWith (step (feed [.host (.read 0x000 4)] State.reset))
      (fun t => decide (t.resp = some (.okayData 0x544F5450))) = true := by decide

/-- Program P1, first write: `GEZD` is 0x445A4547 on the bus. -/
theorem test_buffer_lanes :
    nextWith (step (feed [.host (.write 0x100 4 0x445A4547)] State.reset))
      (fun t => bufIs t .inBuf (ascii "GEZD")) = true := by decide +kernel

/-- V-BUS-1. -/
theorem test_reserved_offset_faults :
    faultsWith (step (feed [.host (.read 0x04C 4)] State.reset)) (.busError 0x04C) = true := by decide

/-- V-BUS-2. -/
theorem test_misaligned_faults :
    faultsWith (step (feed [.host (.write 0x002 4 5)] State.reset)) (.busError 0x002) = true := by decide

/-- R276 (c): a 16-bit access. -/
theorem test_narrow_access_faults :
    faultsWith (step (feed [.host (.read 0x00C 2)] State.reset)) (.busError 0x00C) = true := by decide

/-- V-BUS-4. -/
theorem test_read_only_write_ignored :
    nextWith (step (feed [.host (.write 0x050 4 0xFFFFFFFF)] State.reset))
      (fun t => bufIs t .digest [0, 0, 0, 0] && decide (t.resp = some .okay)) = true := by decide +kernel

/-- Program P7: a write of an operand while busy is ignored and sets `WIGN`. -/
theorem test_busy_write_ignored :
    nextWith (step (feed [.host (.write 0x028 4 1)] (running 4 withKey)))
      (fun t => decide (t.counterLo = 0) && decide (t.readReg .status = 9)) = true := by decide +kernel

/-- R308: a read of `CODE` while HOTP runs gives the draw. -/
theorem test_busy_read_is_the_draw :
    nextWith (step (feed [.host (.read 0x03C 4)] (running 4 withKey)))
      (fun t => decide (t.resp = some (.okayData 0xDEADBEEF))) = true := by decide +kernel

/-- V-STA-1. -/
theorem test_status_clears_error_and_code :
    nextWith (step (feed [.host (.write 0x00C 4 4)]
        { State.reset with status := { busy := false, done := true, err := true, wign := false, errCode := 1 } }))
      (fun t => decide (t.readReg .status = 2)) = true := by decide

/-- V-STA-6. -/
theorem test_ctrl_reserved_bits :
    nextWith (step (feed [.host (.write 0x004 4 0xFFFFFFFF)] State.reset))
      (fun t => decide (t.readReg .ctrl = 1)) = true := by decide

/-- R118: the record `1 020 0000003B`. -/
theorem test_record : (wr 0x020 59).record = (0x10200000003B : BitVec 45) := by decide

/-! ### Reset and the runs -/

/-- R301: a reset drops the running command. -/
theorem test_reset_drops_the_command :
    nextWith (step { running 4 withKey with inputs :=
        [{ wallclock := 0, rst := true, freeData := 1, freeSample := 9, event := .engine }] })
      (fun t => decide (t.phase = .idle) && decide (t.keyLen = 0) && decide (t.digits = 6) && bufIs t .keyBuf [0, 0] &&
        decide (t.tsSample = 9) && decide (t.readReg .status = 0)) = true := by decide +kernel

/-- A word placed in the reset state runs in the next step. -/
theorem test_placed_word_runs :
    nextWith (step (State.reset.withFetchWord 32 0x106)) (fun t => decide (t.readReg .status = 2) && decide (t.cmd = 0x106))
      = true := by decide +kernel

/-! ### Witnesses: for every obligation with hypotheses, values that meet them all -/

/-- The reset state in its `Running` phase with a command word accepted. -/
def accepted (w : Word) (s : State) : State := s.accept w

theorem reset_inv : State.reset.Inv where
  memWf := by decide
  memMapped := by simp [State.reset]
  busyRunning := by simp [State.reset]
  runningCmd := by simp [State.reset]
  notBusyDone := by simp [State.reset]
  errIffCode := by simp [State.reset]
  busyNoErr := by simp [State.reset]
  codeRange := by decide
  decCount := by decide
  decTail := by decide
  codeLe := by decide
  rstIdle := by simp [State.reset]

theorem accepted_inv (w : Word) : (accepted w State.reset).Inv where
  memWf := reset_inv.memWf
  memMapped := reset_inv.memMapped
  busyRunning := by simp [accepted, State.accept]
  runningCmd := by rintro op v h; injection h with h1 h2; subst h2; exact ⟨h1.symm, rfl⟩
  notBusyDone := by simp [accepted, State.accept]
  errIffCode := by simp [accepted, State.accept]
  busyNoErr := by simp [accepted, State.accept]
  codeRange := by simp [accepted, State.accept]
  decCount := reset_inv.decCount
  decTail := reset_inv.decTail
  codeLe := reset_inv.codeLe
  rstIdle := by simp [accepted, State.accept, State.reset]

/-- A quiet engine turn as input. -/
def engineTurn : Input := { wallclock := 59, rst := false, freeData := 0, freeSample := 0, event := .engine }

theorem witness_DecodeAndEncodeAgree :
    decodeCmd 0x00000106 = .legal (.totp true) ∧ encode (.totp true) = 0x00000106 := by decide

theorem witness_ExactlyTenWordsDecode :
    (0x8 : Word) ∉ [(0x0 : Word), 0x1, 0x2, 0x3, 0x4, 0x5, 0x6, 0x7, 0x105, 0x106] ∧
      (0x107 : Word) ∉ [(0x0 : Word), 0x1, 0x2, 0x3, 0x4, 0x5, 0x6, 0x7, 0x105, 0x106] := by decide

/-- One word for each way of being illegal: the last reserved opcode, bit 4, bit 9, and `EXPLICIT_TS` on HOTP. -/
theorem witness_IllegalWordFailsWithCodeOne :
    (8 ≤ ((0xF : Word).extractLsb' 0 4).toNat) ∧ ((0x11 : Word).extractLsb' 4 4 ≠ 0) ∧
      ((0x206 : Word).extractLsb' 9 23 ≠ 0) ∧
      ((0x104 : Word).getLsbD 8 = true ∧ (0x104 : Word).extractLsb' 0 4 ≠ 5 ∧ (0x104 : Word).extractLsb' 0 4 ≠ 6) ∧
      (accepted 0x104 State.reset).phase = .running 4 0x104 := by decide

theorem witness_StepRunsTheDecodedCommand_no_input :
    (accepted 4 State.reset).inputs = [] ∧ (accepted 4 State.reset).rst = false ∧
      (accepted 4 State.reset).phase = .running 4 4 ∧ decodeCmd 4 = .legal .hotp := by decide

theorem witness_StepRunsTheDecodedCommand_input :
    ({ accepted 4 State.reset with inputs := [engineTurn] } : State).inputs = engineTurn :: [] ∧
      engineTurn.rst = false ∧ engineTurn.event = .engine ∧ (accepted 4 State.reset).phase = .running 4 4 ∧
      decodeCmd 4 = .legal .hotp := by decide

theorem witness_PlacedWordRunsNext : decodeTableWord 32 0x105 = some (.tcount true) := by decide

theorem witness_CommandWriteIsAccepted_idle : State.reset.Inv ∧ State.reset.phase = .idle := ⟨reset_inv, rfl⟩

theorem witness_CommandWriteIsAccepted_running :
    (accepted 0x11 State.reset).Inv ∧ (accepted 0x11 State.reset).phase = .running 1 0x11 := ⟨accepted_inv _, rfl⟩

theorem witness_ChecksRunInOrder_illegal :
    (accepted 8 State.reset).phase = .running 8 8 ∧ decodeCmd 8 = .illegal .reservedOpcode := by decide

/-- Each code of R144 is reached, and a later failing check yields to an earlier one. -/
theorem witness_ChecksRunInOrder_fail :
    errorOf (.totp true) { State.reset with inLen := 257, digits := 0, timeStep := 0 } = some 2 ∧
      errorOf .hotp { State.reset with keyLen := 161, digits := 0 } = some 3 ∧
      errorOf (.totp true) { State.reset with digits := 11, timeStep := 0 } = some 4 ∧
      errorOf (.tcount false) { State.reset with timeStep := 0 } = some 5 := by decide

/-- The largest legal operands pass. -/
theorem witness_ChecksRunInOrder_pass :
    errorOf (.totp true) { State.reset with inLen := 256, digits := 10, timeStep := 1 } = none ∧
      errorOf .hotp { State.reset with keyLen := 160, digits := 1 } = none := by decide

theorem witness_PassingCommandCompletes : errorOf .hotp withKey = none := by decide +kernel

theorem witness_CommandsWriteOnlyTheirWriteSet :
    ∃ t, exec .hotp withKey = .next t ∧ Place.reg .counterLo ∉ Instr.writeSet .hotp ∧ Reg.counterLo ≠ Reg.status ∧
      ∀ b, Place.buf b ∈ Instr.writeSet .hotp → b.holds 0x200 = false :=
  ⟨_, exec_of_pass _ _ ((errorOf_hotp _).2 (by decide)), by decide, by decide, by
    intro b; cases b <;> decide⟩

/-- HOTP on two states that differ in what it does not read. -/
theorem witness_ResultsDependOnlyOnTheReadSet :
    ∃ s' t', agreeOnReads .hotp State.reset { State.reset with inLen := 3, code := 5 } ∧ errorOf .hotp State.reset = none ∧
      exec .hotp State.reset = .next s' ∧ exec .hotp { State.reset with inLen := 3, code := 5 } = .next t' :=
  ⟨_, _, ⟨fun r h => by cases r <;> first | rfl | simp [Instr.readSet] at h, fun _ _ _ _ => rfl, by simp⟩,
    (errorOf_hotp _).2 (by decide), exec_of_pass _ _ ((errorOf_hotp _).2 (by decide)),
    exec_of_pass _ _ ((errorOf_hotp _).2 (by decide))⟩

theorem witness_OperandsAreStableWhileRunning :
    ∃ t, (accepted 4 State.reset).status.busy = true ∧ (accepted 4 State.reset).runningInstr = some .hotp ∧
      hostStep (.write 0x028 4 1) 0 (accepted 4 State.reset) = .next t :=
  ⟨_, rfl, by decide, rfl⟩

theorem witness_NopChangesNoData :
    State.reset.status.err = false ∧ State.reset.status.errCode = 0 ∧ State.reset.status.wign = false := by decide

theorem witness_DecodeWritesTheDecodedKey :
    ({ State.reset with inLen := 256 } : State).inLen.toNat ≤ 256 ∧
      256 < ({ State.reset with inLen := 257 } : State).inLen.toNat := by decide

theorem witness_HmacWritesTheDigest :
    ({ State.reset with keyLen := 160 } : State).keyLen.toNat ≤ 160 ∧
      160 < ({ State.reset with keyLen := 161 } : State).keyLen.toNat := by decide

theorem witness_ReduceWritesTheCode :
    (1 ≤ ({ State.reset with digits := 1 } : State).digits.toNat ∧
      ({ State.reset with digits := 10 } : State).digits.toNat ≤ 10) ∧
      ({ State.reset with digits := 0 } : State).digits.toNat = 0 ∧
      10 < ({ State.reset with digits := 11 } : State).digits.toNat := by decide

theorem witness_HotpWritesDigestAndCode_pass :
    ({ State.reset with keyLen := 160, digits := 10 } : State).keyLen.toNat ≤ 160 ∧
      1 ≤ ({ State.reset with keyLen := 160, digits := 10 } : State).digits.toNat ∧
      ({ State.reset with keyLen := 160, digits := 10 } : State).digits.toNat ≤ 10 := by decide

theorem witness_HotpWritesDigestAndCode_fail :
    160 < ({ State.reset with keyLen := 161 } : State).keyLen.toNat ∧
      ({ State.reset with keyLen := 160, digits := 0 } : State).keyLen.toNat ≤ 160 ∧
      ({ State.reset with keyLen := 160, digits := 0 } : State).digits.toNat = 0 ∧
      10 < ({ State.reset with digits := 11 } : State).digits.toNat := by decide

theorem witness_HotpIsHmacThenReduce :
    ∃ t u, errorOf .hotp withKey = none ∧ exec .hmac withKey = .next t ∧ exec .reduce t = .next u := by
  refine ⟨_, _, (errorOf_hotp _).2 (by decide), exec_of_pass _ _ ((errorOf_hmac _).2 (by decide)),
    exec_of_pass _ _ ((errorOf_reduce _).2 ?_)⟩
  simp only [State.finish_digits, commitOf, State.putDigest_digits]
  exact ⟨by decide, by decide⟩

theorem witness_TcountWritesTheWindow :
    ({ State.reset with timeStep := 1 } : State).timeStep.toNat ≠ 0 ∧
      ({ State.reset with timeStep := 0 } : State).timeStep.toNat = 0 := by decide

theorem witness_TotpWritesEveryStage_pass :
    ({ State.reset with inLen := 256, digits := 10, timeStep := 1 } : State).inLen.toNat ≤ 256 ∧
      1 ≤ ({ State.reset with inLen := 256, digits := 10, timeStep := 1 } : State).digits.toNat ∧
      ({ State.reset with inLen := 256, digits := 10, timeStep := 1 } : State).digits.toNat ≤ 10 ∧
      ({ State.reset with inLen := 256, digits := 10, timeStep := 1 } : State).timeStep.toNat ≠ 0 := by decide

theorem witness_TotpWritesEveryStage_fail :
    256 < ({ State.reset with inLen := 257 } : State).inLen.toNat ∧ State.reset.inLen.toNat ≤ 256 ∧
      ({ State.reset with digits := 0 } : State).digits.toNat = 0 ∧
      10 < ({ State.reset with digits := 15 } : State).digits.toNat ∧ 1 ≤ State.reset.digits.toNat ∧
      State.reset.digits.toNat ≤ 10 ∧ ({ State.reset with timeStep := 0 } : State).timeStep.toNat = 0 := by decide

/-- With an empty secret the four stages run one after another. -/
theorem witness_TotpIsItsFourStages :
    ∃ t₁ t₂ t₃ t₄, errorOf (.totp true) State.reset = none ∧ exec .decode State.reset = .next t₁ ∧
      exec (.tcount true) t₁ = .next t₂ ∧ exec .hmac t₂ = .next t₃ ∧ exec .reduce t₃ = .next t₄ :=
  ⟨_, _, _, _, (errorOf_totp _ _).2 ⟨by decide, ⟨by decide, by decide⟩, by decide⟩,
    exec_of_pass _ _ ((errorOf_decode _).2 (by decide)), exec_of_pass _ _ ((errorOf_tcount _ _).2 (by decide)),
    exec_of_pass _ _ ((errorOf_hmac _).2 (by decide)), exec_of_pass _ _ ((errorOf_reduce _).2 ⟨by decide, by decide⟩)⟩

/-- The clock moves on between the acceptance and the engine's turn. -/
theorem witness_TcountTakesTheClockAtAcceptance :
    ∃ (s : State) (a b : Input), s.Inv ∧ s.phase = .idle ∧ s.timeStep.toNat ≠ 0 ∧ s.inputs = a :: b :: [] ∧
      a.rst = false ∧ a.event = .host (.write 0x008 4 0x00000005) ∧ b.rst = false ∧ b.event = .engine ∧
      a.wallclock ≠ b.wallclock :=
  ⟨{ State.reset with inputs := [{ engineTurn with event := .host (.write 0x008 4 5) }, { engineTurn with wallclock := 90 }] },
    _, _, { reset_inv with }, rfl, by decide, rfl, rfl, rfl, rfl, rfl, by decide⟩

theorem witness_AlphabetIndexTable :
    b32val 0x7A = some 25 ∧ b32val 0x32 = some 26 ∧ b32val 0x37 = some 31 ∧ 0x80 ≤ (0x80 : Byte).toNat := by decide

theorem witness_BitSlicingReadsTheStream : 7 < 8 ∧ 4 < 5 * (indices (ascii "GEZDGNBV")).length / 8 := by decide +kernel

theorem witness_DroppedCharactersDoNotMatter : b32val 0x3D = none ∧ b32val 0x20 = none ∧ b32val 0xC3 = none := by decide

theorem witness_DecodedKeyAlwaysFits :
    ∃ t, ({ State.reset with inLen := 256 } : State).inLen.toNat ≤ 256 ∧
      exec .decode { State.reset with inLen := 256 } = .next t :=
  ⟨_, by decide, exec_of_pass _ _ ((errorOf_decode _).2 (by decide))⟩

/-- V-B32-10a: `ff` encodes as `74======`. -/
theorem witness_Base32RoundTrip :
    b32encode [0xFF] = ascii "74======" ∧ [(0xFF : Byte)].length ≤ 160 ∧ (b32encode [0xFF]).length ≤ 256 ∧
      ({ State.reset.fillBuf .inBuf (ascii "74======") with inLen := 8 } : State).inLen.toNat = (b32encode [0xFF]).length ∧
      ∀ k < (b32encode [0xFF]).length,
        ({ State.reset.fillBuf .inBuf (ascii "74======") with inLen := 8 } : State).byteOf .inBuf k
          = (b32encode [0xFF]).getD k 0 := by decide +kernel

theorem witness_HmacNestsTwoHashes : ¬ 64 < (List.replicate 64 (0x4B : Byte)).length ∧ 64 < (List.replicate 65 (0x4B : Byte)).length := by
  decide

theorem witness_ScheduleFollowsItsRecurrence : (List.replicate 64 (0xA5 : Byte)).length = 64 ∧ 16 ≤ 79 ∧ 79 < 80 := by
  decide

theorem witness_CompressionRunsEightyRounds : (List.replicate 64 (0xA5 : Byte)).length = 64 := by decide

/-- V-HMAC-11: the empty key and three zero bytes. -/
theorem witness_TrailingZeroKeyBytesDoNotMatter :
    ∃ s' t', State.reset.keyLen.toNat ≤ ({ State.reset with keyLen := 64 } : State).keyLen.toNat ∧
      ({ State.reset with keyLen := 64 } : State).keyLen.toNat ≤ 64 ∧
      State.reset.counter = ({ State.reset with keyLen := 64 } : State).counter ∧
      (∀ k < State.reset.keyLen.toNat,
        State.reset.byteOf .keyBuf k = ({ State.reset with keyLen := 64 } : State).byteOf .keyBuf k) ∧
      (∀ k, State.reset.keyLen.toNat ≤ k → k < ({ State.reset with keyLen := 64 } : State).keyLen.toNat →
        ({ State.reset with keyLen := 64 } : State).byteOf .keyBuf k = 0) ∧
      exec .hmac State.reset = .next s' ∧ exec .hmac { State.reset with keyLen := 64 } = .next t' :=
  ⟨_, _, by decide, by decide, rfl, fun _ _ => rfl, fun _ _ _ => rfl, exec_of_pass _ _ ((errorOf_hmac _).2 (by decide)),
    exec_of_pass _ _ ((errorOf_hmac _).2 (by decide))⟩

/-- For the statements on the reducer: REDUCE, HOTP and TOTP pass with 1 and with 10 digits. -/
theorem witness_CodeIsFixedWidthDecimal :
    ∃ t, errorOf .reduce { State.reset with digits := 10 } = none ∧
      exec .reduce { State.reset with digits := 10 } = .next t ∧
      0 < ({ State.reset with digits := 10 } : State).digits.toNat ∧
      ({ State.reset with digits := 10 } : State).digits.toNat ≤ 11 :=
  ⟨_, (errorOf_reduce _).2 ⟨by decide, by decide⟩, exec_of_pass _ _ ((errorOf_reduce _).2 ⟨by decide, by decide⟩),
    by decide, by decide⟩

theorem witness_ReductionStaysInRange :
    ∃ t u, errorOf .hotp { State.reset with digits := 10 } = none ∧
      exec .hotp { State.reset with digits := 10 } = .next t ∧ errorOf (.totp false) { State.reset with digits := 1 } = none ∧
      exec (.totp false) { State.reset with digits := 1 } = .next u ∧
      ({ State.reset with digits := 10 } : State).digits.toNat = 10 :=
  ⟨_, _, (errorOf_hotp _).2 ⟨by decide, by decide, by decide⟩,
    exec_of_pass _ _ ((errorOf_hotp _).2 ⟨by decide, by decide, by decide⟩),
    (errorOf_totp _ _).2 ⟨by decide, ⟨by decide, by decide⟩, by decide⟩,
    exec_of_pass _ _ ((errorOf_totp _ _).2 ⟨by decide, ⟨by decide, by decide⟩, by decide⟩), by decide⟩

/-- V-TOTP-8: the timestamps 30 and 59 lie in one window. -/
theorem witness_SameWindowSameCode :
    ∃ s' t', ({ State.reset with timestampLo := 30 } : State).secretBytes
        = ({ State.reset with timestampLo := 59 } : State).secretBytes ∧
      (({ State.reset with timestampLo := 30 } : State).timeOperand true).toNat / State.reset.timeStep.toNat
        = (({ State.reset with timestampLo := 59 } : State).timeOperand true).toNat / State.reset.timeStep.toNat ∧
      errorOf (.totp true) { State.reset with timestampLo := 30 } = none ∧
      exec (.totp true) { State.reset with timestampLo := 30 } = .next s' ∧
      exec (.totp true) { State.reset with timestampLo := 59 } = .next t' :=
  ⟨_, _, rfl, by decide, (errorOf_totp _ _).2 ⟨by decide, ⟨by decide, by decide⟩, by decide⟩,
    exec_of_pass _ _ ((errorOf_totp _ _).2 ⟨by decide, ⟨by decide, by decide⟩, by decide⟩),
    exec_of_pass _ _ ((errorOf_totp _ _).2 ⟨by decide, ⟨by decide, by decide⟩, by decide⟩)⟩

/-- From 59 to 60 a window ends; from 58 to 59 it does not. -/
theorem witness_SecondsRemainingCountDown :
    ∃ s' t', errorOf (.tcount true) { State.reset with timestampLo := 59 } = none ∧
      errorOf (.tcount true) { State.reset with timestampLo := 60 } = none ∧
      exec (.tcount true) { State.reset with timestampLo := 59 } = .next s' ∧
      exec (.tcount true) { State.reset with timestampLo := 60 } = .next t' ∧
      (({ State.reset with timestampLo := 60 } : State).timeOperand true).toNat
        = (({ State.reset with timestampLo := 59 } : State).timeOperand true).toNat + 1 ∧
      (({ State.reset with timestampLo := 60 } : State).timeOperand true).toNat % State.reset.timeStep.toNat = 0 ∧
      (({ State.reset with timestampLo := 59 } : State).timeOperand true).toNat
        = (({ State.reset with timestampLo := 58 } : State).timeOperand true).toNat + 1 ∧
      (({ State.reset with timestampLo := 59 } : State).timeOperand true).toNat % State.reset.timeStep.toNat ≠ 0 :=
  ⟨_, _, (errorOf_tcount _ _).2 (by decide), (errorOf_tcount _ _).2 (by decide),
    exec_of_pass _ _ ((errorOf_tcount _ _).2 (by decide)), exec_of_pass _ _ ((errorOf_tcount _ _).2 (by decide)),
    by decide, by decide, by decide, by decide⟩

/-- V-TC-7: the range clause at the largest timestamp, which has no successor. -/
theorem witness_SecondsRemainingCountDown_range :
    ∃ s', errorOf (.tcount true)
        { State.reset with timestampHi := 0xFFFFFFFF, timestampLo := 0xFFFFFFFF, timeStep := 1 } = none ∧
      exec (.tcount true) { State.reset with timestampHi := 0xFFFFFFFF, timestampLo := 0xFFFFFFFF, timeStep := 1 }
        = .next s' :=
  ⟨_, (errorOf_tcount _ _).2 (by decide), exec_of_pass _ _ ((errorOf_tcount _ _).2 (by decide))⟩

theorem witness_CountersFollowTheirTimestamps :
    ∃ s' t', errorOf (.tcount true) { State.reset with timestampLo := 5 } = none ∧
      errorOf (.totp true) { State.reset with timestampHi := 0xFFFFFFFF } = none ∧
      exec (.tcount true) { State.reset with timestampLo := 5 } = .next s' ∧
      exec (.totp true) { State.reset with timestampHi := 0xFFFFFFFF } = .next t' ∧
      (({ State.reset with timestampLo := 5 } : State).timeOperand true).toNat
        ≤ (({ State.reset with timestampHi := 0xFFFFFFFF } : State).timeOperand true).toNat :=
  ⟨_, _, (errorOf_tcount _ _).2 (by decide), (errorOf_totp _ _).2 ⟨by decide, ⟨by decide, by decide⟩, by decide⟩,
    exec_of_pass _ _ ((errorOf_tcount _ _).2 (by decide)),
    exec_of_pass _ _ ((errorOf_totp _ _).2 ⟨by decide, ⟨by decide, by decide⟩, by decide⟩), by decide⟩

/-- The last word of each buffer lies in its clause, and the next offset does not. -/
theorem witness_WindowMapIsTheSpecs :
    placeAt 0x060 = some (.buf .digest) ∧ placeAt 0x064 = some (.buf .codeChars) ∧ placeAt 0x06C = some (.buf .codeChars) ∧
      placeAt 0x070 = none ∧ placeAt 0x1FC = some (.buf .inBuf) ∧ placeAt 0x200 = some (.buf .keyBuf) ∧
      placeAt 0x29C = some (.buf .keyBuf) ∧ placeAt 0x2A0 = none ∧ placeAt 0x04C = none := by decide

/-- V-BUS-1 to V-BUS-3 and a narrow access are malformed; `ID` read as a word is not. -/
theorem witness_MalformedTransactionsFault :
    malformed 0x04C 4 ∧ malformed 0x070 4 ∧ malformed 0x0FC 4 ∧ malformed 0x2A0 4 ∧ malformed 0xFFC 4 ∧
      malformed 0x002 4 ∧ malformed 0x000 2 ∧ ¬ malformed 0x000 4 ∧ ¬ malformed 0x29C 4 := by
  unfold malformed
  refine ⟨?_, ?_, ?_, ?_, ?_, ?_, ?_, ?_, ?_⟩ <;> decide

theorem witness_ReadsHaveNoSideEffect :
    placeAt (0x29C : BitVec 12).toNat = some (.buf .keyBuf) ∧ placeAt (0x048 : BitVec 12).toNat = some (.reg .decTail) := by
  decide

theorem witness_BusyWritesAreIgnored :
    (accepted 4 State.reset).status.busy = true ∧ protectedOffset 0x008 ∧ protectedOffset 0x010 ∧ protectedOffset 0x02C ∧
      protectedOffset 0x100 ∧ protectedOffset 0x29C := by
  unfold protectedOffset
  decide

theorem witness_BusyReadsAreUnspecified :
    (accepted 4 State.reset).Inv ∧ (accepted 4 State.reset).phase = .running 4 4 ∧ decodeCmd 4 = .legal .hotp ∧
      placeAt (0x06C : BitVec 12).toNat = some (.buf .codeChars) ∧ Place.buf .codeChars ∈ Instr.writeSet .hotp ∧
      placeAt (0x040 : BitVec 12).toNat = some (.reg .decValid) ∧ Place.reg .decValid ∉ Instr.writeSet .hotp :=
  ⟨accepted_inv 4, rfl, by decide, by decide, by decide, by decide, by decide⟩

theorem witness_ReadOnlyWritesAreIgnored :
    (0x000 : BitVec 12).toNat = 0 ∧ (0x030 ≤ (0x048 : BitVec 12).toNat ∧ (0x048 : BitVec 12).toNat < 0x04C) ∧
      (0x050 ≤ (0x06C : BitVec 12).toNat ∧ (0x06C : BitVec 12).toNat < 0x070) ∧
      (0x048 : BitVec 12).toNat % 4 = 0 ∧ (0x06C : BitVec 12).toNat % 4 = 0 := by decide

theorem witness_RegisterWriteReadsBack :
    State.reset.status.busy = false ∧
      ((0x018 : BitVec 12), (0x0000000F : Word)) ∈ ([(0x004, 0x00000001), (0x010, 0x0000FFFF), (0x014, 0x0000FFFF),
        (0x018, 0x0000000F), (0x01C, 0xFFFFFFFF), (0x020, 0xFFFFFFFF), (0x024, 0xFFFFFFFF), (0x028, 0xFFFFFFFF),
        (0x02C, 0xFFFFFFFF)] : List (BitVec 12 × Word)) ∧
      placeAt (0x018 : BitVec 12).toNat ≠ some (.reg .ctrl) := by decide

theorem witness_BufferWordRoundTrip :
    State.reset.status.busy = false ∧ (0x100 : BitVec 12).toNat % 4 = 0 ∧ 0x100 ≤ (0x100 : BitVec 12).toNat ∧
      (0x29C : BitVec 12).toNat < 0x2A0 ∧ (0x29C : BitVec 12).toNat % 4 = 0 := by decide

theorem witness_ReservedBitsReadZero :
    placeAt (0x00C : BitVec 12).toNat = some (.reg .status) ∧
      (accepted 4 State.reset).readUnspecified (.reg .status) = false ∧
      placeAt (0x048 : BitVec 12).toNat = some (.reg .decTail) ∧ State.reset.readUnspecified (.reg .decTail) = false ∧
      (Reg.binary, (0x80000000 : Word)) ∈ ([(.ctrl, 0xFFFFFFFE), (.status, 0xFFFFF0F0), (.inLen, 0xFFFF0000),
        (.keyLen, 0xFFFF0000), (.digits, 0xFFFFFFF0), (.offset, 0xFFFFFFF0), (.binary, 0x80000000),
        (.decValid, 0xFFFFFE00), (.decDropped, 0xFFFFFE00), (.decTail, 0xFFFFFFF8)] : List (Reg × Word)) := by decide

/-- A step in which a busy engine ignores a write, and one in which `WIGN` is cleared. -/
theorem witness_WignIsSticky :
    ∃ t u, (feed [.host (.write 0x028 4 1)] (accepted 4 State.reset)).nextInput.rst = false ∧
      step (feed [.host (.write 0x028 4 1)] (accepted 4 State.reset)) = .next t ∧
      (feed [.host (.write 0x00C 4 8)] State.reset).nextInput.rst = false ∧
      step (feed [.host (.write 0x00C 4 8)] State.reset) = .next u :=
  ⟨_, _, rfl, rfl, rfl, rfl⟩

theorem witness_OnlyTheHostWritesTheConfiguration :
    ∃ t, (feed [.host (.write 0x018 4 8)] State.reset).nextInput.rst = false ∧
      step (feed [.host (.write 0x018 4 8)] State.reset) = .next t ∧
      (∀ d, (feed [.host (.write 0x018 4 8)] State.reset).nextInput.event ≠ .host (.write 0x004 4 d)) ∧
      ∀ d, (feed [.host (.write 0x018 4 8)] State.reset).nextInput.event ≠ .host (.write 0x01C 4 d) :=
  ⟨_, rfl, rfl, fun _ h => by simp [feed, State.nextInput] at h, fun _ h => by simp [feed, State.nextInput] at h⟩

/-- A step that starts a command, and one that writes another register. -/
theorem witness_OnlyACommandWriteStartsTheEngine :
    ∃ t u, (feed [.host (.write 0x008 4 4)] State.reset).nextInput.rst = false ∧
      step (feed [.host (.write 0x008 4 4)] State.reset) = .next t ∧ State.reset.phase = .idle ∧
      t.phase = .running 4 4 ∧ step (feed [.host (.write 0x018 4 8)] State.reset) = .next u ∧
      ∀ w, (feed [.host (.write 0x018 4 8)] State.reset).nextInput.event ≠ .host (.write 0x008 4 w) :=
  ⟨_, _, rfl, rfl, rfl, rfl, rfl, fun _ h => by simp [feed, State.nextInput] at h⟩

/-- A quiet step, a listed engine's turn of an idle block, and a step with no input listed. -/
theorem witness_OnlyACommandWriteStartsTheEngine_no_agent :
    ∃ t u v, (feed [.quiet] (accepted 4 State.reset)).nextInput.rst = false ∧
      (feed [.quiet] (accepted 4 State.reset)).nextInput.event = .quiet ∧
      step (feed [.quiet] (accepted 4 State.reset)) = .next t ∧
      (feed [.engine] State.reset).nextInput.event = .engine ∧ (feed [.engine] State.reset).phase = .idle ∧
      step (feed [.engine] State.reset) = .next u ∧ State.reset.nextInput.rst = false ∧
      State.reset.nextInput.event = .engine ∧ step State.reset = .next v :=
  ⟨_, _, _, rfl, rfl, rfl, rfl, rfl, rfl, rfl, rfl, rfl⟩

/-- The first and the last address of the window. -/
theorem witness_WindowAddressesAreBasePlusOffset :
    windowOffset Config.base = some 0 ∧ windowOffset (Config.base + 4095) = some 4095 := by
  simp [windowOffset, Config.windowBytes]

/-- `RST` listed while HOTP runs, with the engine's turn and with a transaction, and `RST` held with no input listed. -/
theorem witness_ResetAbandonsTheCommand :
    ({ accepted 4 State.reset with inputs := [{ engineTurn with rst := true }] } : State).nextInput.rst = true ∧
      ({ accepted 4 State.reset with inputs := [{ engineTurn with rst := true, event := .host (.read 0x000 4) }] }
        : State).nextInput.event = .host (.read 0x000 4) ∧
      ({ State.reset with rst := true } : State).nextInput.rst = true := by decide

theorem witness_StepKeepsTheBlockInvariant :
    ∃ t, (accepted 4 State.reset).Inv ∧ step (accepted 4 State.reset) = .next t :=
  ⟨_, accepted_inv 4, exec_of_pass .hotp (accepted 4 State.reset) ((errorOf_hotp _).2 (by decide))⟩

theorem witness_EveryRunReachesItsEnd :
    ∀ inp ∈ (feed [.host (.write 0x008 4 4), .engine, .host (.read 0x03C 4)] State.reset).inputs, inp.safe = true := by
  decide

end Sys2Proof.Tests
end

section
/-! PROOFS, family 10_state. What a step can do, read off its next state; then the parts of the block invariant, each
kept by every way the state moves. -/

namespace Sys2Proof.Machine

variable {s t : State}

/-! ### What the commands never write -/

section
variable (i : Instr) (s : State)

@[simp] theorem commitOf_ie : (commitOf i s).ie = s.ie := by
  cases i <;> simp [commitOf, State.putHotp, State.putTotp]
@[simp] theorem commitOf_cmd : (commitOf i s).cmd = s.cmd := by
  cases i <;> simp [commitOf, State.putHotp, State.putTotp]
@[simp] theorem commitOf_status : (commitOf i s).status = s.status := by
  cases i <;> simp [commitOf, State.putHotp, State.putTotp]
@[simp] theorem commitOf_digits : (commitOf i s).digits = s.digits := by
  cases i <;> simp [commitOf, State.putHotp, State.putTotp]
@[simp] theorem commitOf_timeStep : (commitOf i s).timeStep = s.timeStep := by
  cases i <;> simp [commitOf, State.putHotp, State.putTotp]
@[simp] theorem commitOf_phase : (commitOf i s).phase = s.phase := by
  cases i <;> simp [commitOf, State.putHotp, State.putTotp]
@[simp] theorem commitOf_tsSample : (commitOf i s).tsSample = s.tsSample := by
  cases i <;> simp [commitOf, State.putHotp, State.putTotp]
@[simp] theorem commitOf_rst : (commitOf i s).rst = s.rst := by
  cases i <;> simp [commitOf, State.putHotp, State.putTotp]

end

/-! ### What a step leaves, read off its next state -/

/-- The state a step's agent finds: the next input taken off the list and the pins at its levels. -/
def State.driven (s : State) : State := s.dropInput.drive s.nextInput

/-- The next state of a command: it raises an error, or its checks pass and it commits and completes. -/
theorem exec_next {i : Instr} (h : exec i s = .next t) :
    (∃ e, t = s.raiseCmdError e) ∨ (errorOf i s = none ∧ t = (commitOf i s).finish) := by
  rw [exec_eq_validated] at h
  cases hf : firstFailing (checksOf i) s with
  | some e =>
    rw [validated_of_fail _ _ _ _ hf] at h
    cases h
    exact .inl ⟨e, rfl⟩
  | none =>
    rw [validated_of_pass _ _ _ hf] at h
    cases h
    exact .inr ⟨by rw [← firstFailing_code, hf]; rfl, rfl⟩

/-- The next state of the engine's turn: the same state while idle, else the end of the running command. -/
theorem engineStep_next (h : engineStep s = .next t) :
    (s.phase = .idle ∧ t = s) ∨
    (s.phase ≠ .idle ∧
      ((∃ e, t = s.raiseCmdError e) ∨ ∃ i, errorOf i s = none ∧ t = (commitOf i s).finish)) := by
  obtain ⟨hp, he⟩ | ⟨op, w, i, hp, -, he⟩ | ⟨op, w, why, hp, -, he⟩ := engineStep_cases s <;> rw [he] at h
  · cases h
    exact .inl ⟨hp, rfl⟩
  · refine .inr ⟨by simp [hp], ?_⟩
    obtain hx | hx := exec_next h
    · exact .inl hx
    · exact .inr ⟨i, hx⟩
  · cases h
    exact .inr ⟨by simp [hp], .inl ⟨_, rfl⟩⟩

/-- The next state of a step without reset, by the agent that moved. -/
theorem step_next (hr : s.nextInput.rst = false) (h : step s = .next t) :
    (s.nextInput.event = .quiet ∧ t = s.driven) ∨
    (s.nextInput.event = .engine ∧ engineStep s.driven = .next t) ∨
    (∃ off r, s.nextInput.event = .host (.read off 4) ∧ t = { s.driven with resp := r }) ∨
    (∃ off p d r, s.nextInput.event = .host (.write off 4 d) ∧ placeAt off.toNat = some p ∧
      t = { s.driven.busWrite p off.toNat d with resp := r }) := by
  obtain ⟨hr', -⟩ | ⟨-, he, hs⟩ | ⟨-, he, hs⟩ | ⟨x, -, he, hs⟩ := step_cases s
  · simp [hr] at hr'
  · rw [hs] at h
    cases h
    exact .inl ⟨he, rfl⟩
  · exact .inr (.inl ⟨he, hs ▸ h⟩)
  · rw [hs] at h
    obtain ⟨-, hx⟩ | ⟨off, p, rfl, -, hx⟩ | ⟨off, p, d, rfl, hp, hx⟩ :=
      hostStep_cases x s.nextInput.freeData (s.dropInput.drive s.nextInput) <;> rw [hx] at h <;> cases h
    · exact .inr (.inr (.inl ⟨off, _, he, rfl⟩))
    · exact .inr (.inr (.inr ⟨off, p, d, _, he, hp, rfl⟩))

/-- The next state of a step under `RST`. -/
theorem step_next_reset (hr : s.nextInput.rst = true) (h : step s = .next t) :
    t = s.driven.applyReset s.nextInput := by
  simp only [step, react, hr, if_true] at h
  cases h
  rfl

/-! ### The block invariant in two parts -/

/-- The byte store is canonical and lists bytes of the buffers only. -/
def Memory.ok (m : List Host.Cell) : Prop := Memory.wf m ∧ ∀ c ∈ m, ∃ b : Buf, b.holds c.1 = true

/-- The part of `State.Inv` about the data the commands write. -/
structure State.DataInv (s : State) : Prop where
  memOk : Memory.ok s.mem
  decCount : s.decValid.toNat + s.decDropped.toNat ≤ Config.inMax
  decTail : s.decTail.toNat = 5 * s.decValid.toNat % 8
  codeLe : s.code.toNat ≤ s.binary.toNat

/-- The part of `State.Inv` about `STATUS`, the phase and the reset pin. -/
structure State.ControlInv (s : State) : Prop where
  busyRunning : s.status.busy = true ↔ s.phase ≠ .idle
  runningCmd : ∀ op w, s.phase = .running op w → op = opField w ∧ w = s.cmd
  notBusyDone : ¬ (s.status.busy = true ∧ s.status.done = true)
  errIffCode : s.status.err = false ↔ s.status.errCode = 0
  busyNoErr : s.status.busy = true → s.status.err = false
  codeRange : s.status.errCode.toNat ≤ 5
  rstIdle : s.rst = true → s.phase = .idle

theorem State.inv_iff (s : State) : s.Inv ↔ s.DataInv ∧ s.ControlInv := by
  constructor
  · rintro ⟨h1, h2, h3, h4, h5, h6, h7, h8, h9, h10, h11, h12⟩
    exact ⟨⟨⟨h1, h2⟩, h9, h10, h11⟩, h3, h4, h5, h6, h7, h8, h12⟩
  · rintro ⟨⟨⟨h1, h2⟩, h9, h10, h11⟩, h3, h4, h5, h6, h7, h8, h12⟩
    exact ⟨h1, h2, h3, h4, h5, h6, h7, h8, h9, h10, h11, h12⟩

/-! ### The data part -/

theorem Memory.ok_writeBytes {m : List Host.Cell} (h : Memory.ok m) (b : Buf) (a : Nat) (v : List Byte)
    (hlo : b.base ≤ a) (hhi : a + v.length ≤ b.base + b.size) : Memory.ok (Memory.writeBytes m a v) := by
  refine ⟨Memory.wf_writeBytes _ _ _ h.1, fun c hc => ?_⟩
  obtain hc | hc := Memory.mem_writeBytes _ _ _ c hc
  · exact ⟨b, (Buf.holds_iff b _).2 (by omega)⟩
  · exact h.2 c hc

theorem Memory.ok_clearBufs {m : List Host.Cell} (h : Memory.ok m) : Memory.ok (Memory.clearBufs m) := by
  rw [Memory.clearBufs]
  generalize [Buf.inBuf, .keyBuf, .digest, .codeChars] = bs
  induction bs generalizing m with
  | nil => exact h
  | cons b bs ih => exact ih (Memory.ok_writeBytes h b _ _ le_rfl (by simp))

/-- The truncated binary code has 31 bits (R221, R225). -/
theorem truncBinary_lt (d : List Byte) (off : Nat) : truncBinary d off < 2 ^ 31 := by
  have h0 : (d.getD off 0 &&& 0x7F).toNat ≤ 0x7F := by
    rw [BitVec.toNat_and]
    exact Nat.and_le_right
  have h1 := (d.getD (off + 1) 0).isLt
  have h2 := (d.getD (off + 2) 0).isLt
  have h3 := (d.getD (off + 3) 0).isLt
  unfold truncBinary
  omega

namespace State.DataInv

/-- The data part depends on the byte store and on five registers only. -/
theorem congr (h : s.DataInv) (hm : t.mem = s.mem) (hv : t.decValid = s.decValid) (hd : t.decDropped = s.decDropped)
    (hl : t.decTail = s.decTail) (hc : t.code = s.code) (hb : t.binary = s.binary) : t.DataInv where
  memOk := hm ▸ h.memOk
  decCount := by rw [hv, hd]; exact h.decCount
  decTail := by rw [hl, hv]; exact h.decTail
  codeLe := by rw [hc, hb]; exact h.codeLe

theorem putDecoding (h : s.DataInv) {secret : List Byte} (hn : secret.length ≤ 256) :
    (s.putDecoding (b32decode secret)).DataInv := by
  have hle := indices_length_le secret
  refine ⟨?_, ?_, ?_, h.codeLe⟩
  · rw [State.putDecoding_mem]
    exact State.mem_ok_fillBuf _ _ _ h.memOk
  · simp [Config.inMax]
    omega
  · simp
    omega

theorem putWindow (h : s.DataInv) (x : Bool) : (s.putWindow x).DataInv :=
  h.congr (by simp) (by simp) (by simp) (by simp) (by simp) (by simp)

theorem putDigest (h : s.DataInv) (d : List Byte) : (s.putDigest d).DataInv :=
  ⟨State.mem_ok_fillBuf _ _ _ h.memOk, h.decCount, h.decTail, h.codeLe⟩

theorem putReduction (h : s.DataInv) (d : List Byte) (n : Nat) : (s.putReduction (reduceDigest d n)).DataInv := by
  refine ⟨State.mem_ok_fillBuf _ _ _ h.memOk, h.decCount, h.decTail, ?_⟩
  have hb := truncBinary_lt d (truncOffset d)
  have hc : truncBinary d (truncOffset d) % 10 ^ n ≤ truncBinary d (truncOffset d) := Nat.mod_le _ _
  simp only [State.putReduction_code, State.putReduction_binary, reduceDigest, BitVec.toNat_ofNat]
  rw [Nat.mod_eq_of_lt (by omega), Nat.mod_eq_of_lt hb]
  exact hc

theorem clearData (h : s.DataInv) : s.clearData.DataInv where
  memOk := by rw [State.clearData_mem]; exact Memory.ok_clearBufs h.memOk
  decCount := by simp
  decTail := by simp
  codeLe := by simp

/-- What a command commits keeps the data part. -/
theorem commitOf (h : s.DataInv) {i : Instr} (hi : errorOf i s = none) : (commitOf i s).DataInv := by
  cases i with
  | nop => exact h
  | decode => exact h.putDecoding (by simpa using (errorOf_decode s).1 hi)
  | hmac => exact h.putDigest _
  | reduce => exact h.putReduction _ _
  | hotp => exact (h.putDigest _).putReduction _ _
  | tcount x => exact h.putWindow x
  | totp x =>
    obtain ⟨hn, -⟩ := (errorOf_totp s x).1 hi
    exact (((h.putDecoding (by simpa using hn)).putWindow x).putDigest _).putReduction _ _
  | clear => exact h.clearData

theorem engineStep (h : s.DataInv) (hs : engineStep s = .next t) : t.DataInv := by
  obtain ⟨-, rfl⟩ | ⟨-, ⟨e, rfl⟩ | ⟨i, hi, rfl⟩⟩ := engineStep_next hs
  · exact h
  · exact h.congr rfl rfl rfl rfl rfl rfl
  · exact (h.commitOf hi).congr rfl rfl rfl rfl rfl rfl

theorem writeReg (h : s.DataInv) (r : Reg) (d : Word) : (s.writeReg r d).DataInv := by
  cases r <;> exact h.congr rfl rfl rfl rfl rfl rfl

theorem writeBuf (h : s.DataInv) {b : Buf} {off : BitVec 12} (hp : placeAt off.toNat = some (.buf b)) (d : Word) :
    (s.writeBuf b off.toNat d).DataInv := by
  obtain ⟨-, hlo, hhi⟩ := placeAt_buf hp
  have hm := Memory.ok_writeBytes h.memOk b off.toNat (lanes d) hlo hhi
  cases b with
  | inBuf | keyBuf => exact ⟨hm, h.decCount, h.decTail, h.codeLe⟩
  | digest | codeChars => exact h

theorem busWrite (h : s.DataInv) {p : Place} {off : BitVec 12} (hp : placeAt off.toNat = some p) (d : Word) :
    (s.busWrite p off.toNat d).DataInv := by
  obtain ⟨-, -, hw⟩ | ⟨-, ⟨r, -, hw⟩ | ⟨b, rfl, hw⟩⟩ := s.busWrite_cases p off.toNat d <;> rw [hw]
  · exact h.congr rfl rfl rfl rfl rfl rfl
  · exact h.writeReg r d
  · exact h.writeBuf hp d

end State.DataInv

/-! ### The control part -/

namespace State.ControlInv

/-- The control part depends on `STATUS`, the phase, `CMD` and the reset pin only. -/
theorem congr (h : s.ControlInv) (hs : t.status = s.status) (hp : t.phase = s.phase) (hc : t.cmd = s.cmd)
    (hr : t.rst = s.rst) : t.ControlInv := by
  obtain ⟨h1, h2, h3, h4, h5, h6, h7⟩ := h
  constructor <;> simp only [hs, hp, hc, hr] <;> assumption

/-- A step without reset finds the control part as it was. -/
theorem driven (h : s.ControlInv) (hr : s.nextInput.rst = false) : s.driven.ControlInv :=
  { h with rstIdle := by simp [State.driven, hr] }

theorem raiseCmdError (s : State) (e : CmdError) : (s.raiseCmdError e).ControlInv where
  busyRunning := by simp
  runningCmd := by simp
  notBusyDone := by simp
  errIffCode := by cases e <;> simp [CmdError.code]
  busyNoErr := by simp
  codeRange := by cases e <;> simp [CmdError.code]
  rstIdle := by simp

theorem finish (h : s.ControlInv) : s.finish.ControlInv :=
  { h with
    busyRunning := by simp
    runningCmd := by simp
    notBusyDone := by simp
    busyNoErr := by simp
    rstIdle := by simp }

theorem engineStep (h : s.ControlInv) (hs : engineStep s = .next t) : t.ControlInv := by
  obtain ⟨-, rfl⟩ | ⟨-, ⟨e, rfl⟩ | ⟨i, -, rfl⟩⟩ := engineStep_next hs
  · exact h
  · exact raiseCmdError s e
  · exact (h.congr (by simp) (by simp) (by simp) (by simp) : (commitOf i s).ControlInv).finish

/-- Acceptance happens outside reset only (R301), which the pin's level says. -/
theorem accept (hr : s.rst = false) (w : Word) : (s.accept w).ControlInv where
  busyRunning := by simp
  runningCmd := by simp
  notBusyDone := by simp
  errIffCode := by simp
  busyNoErr := by simp
  codeRange := by simp
  rstIdle := by simp [hr]

/-- A host write of `STATUS` clears `ERR` and `ERRCODE` together and leaves `BUSY` (R36 to R39). -/
theorem clearW1C (h : s.ControlInv) (d : Word) : ({ s with status := s.status.clearW1C d } : State).ControlInv :=
  { h with
    notBusyDone := fun ⟨hb, hd⟩ => h.notBusyDone ⟨hb, (Bool.and_eq_true _ _ ▸ hd).1⟩
    errIffCode := by
      simp only [Status.clearW1C]
      cases d.getLsbD 2 <;> simp [h.errIffCode]
    busyNoErr := fun hb => by simp [Status.clearW1C, h.busyNoErr hb]
    codeRange := by
      simp only [Status.clearW1C]
      cases d.getLsbD 2 <;> simp [h.codeRange] }

theorem writeReg (h : s.ControlInv) (hr : s.rst = false) (r : Reg) (d : Word) : (s.writeReg r d).ControlInv := by
  cases r with
  | cmd => exact .accept hr d
  | status => exact h.clearW1C d
  | _ => exact h.congr rfl rfl rfl rfl

theorem writeBuf (h : s.ControlInv) (b : Buf) (off : Nat) (d : Word) : (s.writeBuf b off d).ControlInv := by
  cases b <;> exact h.congr rfl rfl rfl rfl

theorem busWrite (h : s.ControlInv) (hr : s.rst = false) (p : Place) (off : Nat) (d : Word) :
    (s.busWrite p off d).ControlInv := by
  obtain ⟨-, -, hw⟩ | ⟨-, ⟨r, -, hw⟩ | ⟨b, -, hw⟩⟩ := s.busWrite_cases p off d <;> rw [hw]
  · exact { h with }
  · exact h.writeReg hr r d
  · exact h.writeBuf b off d

end State.ControlInv

/-! ### The invariant along runs -/

theorem State.dataInv_reset : State.reset.DataInv where
  memOk := ⟨State.reset_mem_wf, by simp [State.reset]⟩
  decCount := by decide
  decTail := by decide
  codeLe := by decide

theorem State.controlInv_reset : State.reset.ControlInv where
  busyRunning := by simp [State.reset]
  runningCmd := by simp [State.reset]
  notBusyDone := by decide
  errIffCode := by decide
  busyNoErr := by decide
  codeRange := by decide
  rstIdle := fun _ => rfl

theorem State.inv_applyReset (s : State) (inp : Input) : (s.applyReset inp).Inv :=
  (State.inv_iff _).2 ⟨State.dataInv_reset.congr rfl rfl rfl rfl rfl rfl,
    { State.controlInv_reset with rstIdle := fun _ => rfl }⟩

theorem step_inv (hi : s.Inv) (h : step s = .next t) : t.Inv := by
  obtain ⟨hd, hc⟩ := s.inv_iff.1 hi
  cases hr : s.nextInput.rst with
  | true =>
    rw [step_next_reset hr h]
    exact State.inv_applyReset _ _
  | false =>
    have hd' : s.driven.DataInv := hd.congr rfl rfl rfl rfl rfl rfl
    have hc' : s.driven.ControlInv := hc.driven hr
    rw [State.inv_iff]
    obtain ⟨-, rfl⟩ | ⟨-, he⟩ | ⟨off, r, -, rfl⟩ | ⟨off, p, d, r, -, hp, rfl⟩ := step_next hr h
    · exact ⟨hd', hc'⟩
    · exact ⟨hd'.engineStep he, hc'.engineStep he⟩
    · exact ⟨hd'.congr rfl rfl rfl rfl rfl rfl, hc'.congr rfl rfl rfl rfl⟩
    · exact ⟨(hd'.busWrite hp d).congr rfl rfl rfl rfl rfl rfl, (hc'.busWrite hr p _ d).congr rfl rfl rfl rfl⟩

/-- Settles O58: the data part and the control part of the invariant are each kept by whichever agent moves. -/
theorem stepKeepsTheBlockInvariant : Obligations.StepKeepsTheBlockInvariant := fun _ _ => step_inv

/-- Settles O57, from the two parts of the invariant. -/
theorem resetMeetsTheBlockInvariant : Obligations.ResetMeetsTheBlockInvariant :=
  State.reset.inv_iff.2 ⟨State.dataInv_reset, State.controlInv_reset⟩

end Sys2Proof.Machine
end

section
/-! PROOFS, family 10_state. The window map and the host's writes by place, then the statements about the bus port. -/

namespace Sys2Proof.Machine

/-! ### The window map (R31) -/

/-- The registers lie below the buffers. -/
theorem regMap_off_lt : ∀ p ∈ regMap, p.1 < 0x04C := by decide

/-- The window offset of a register (R31). -/
def Reg.addr (r : Reg) : BitVec 12 := BitVec.ofNat 12 r.off

theorem placeAt_addr (r : Reg) : placeAt r.addr.toNat = some (.reg r) := by
  cases r <;> decide

/-- A register is reached at its own offset only. -/
theorem place_eq_reg_iff {off : BitVec 12} {p : Place} (hp : placeAt off.toNat = some p) (r : Reg) :
    p = .reg r ↔ off = r.addr := by
  constructor
  · rintro rfl
    exact BitVec.eq_of_toNat_eq ((placeAt_reg hp).trans (placeAt_reg (placeAt_addr r)).symm)
  · rintro rfl
    exact Option.some.inj (hp.symm.trans (placeAt_addr r))

/-- An offset lies in at most one buffer. -/
theorem Buf.holds_iff_eq {off : Nat} {b : Buf} (h : b.holds off = true) (c : Buf) : c.holds off = true ↔ c = b := by
  refine ⟨fun hc => ?_, fun hc => hc ▸ h⟩
  by_contra hne
  exact Buf.disjoint c b hne off ((Buf.holds_iff c off).1 hc) ((Buf.holds_iff b off).1 h)

/-- Every aligned offset inside a buffer reaches that buffer. -/
theorem placeAt_of_holds {off : Nat} {b : Buf} (ha : off % 4 = 0) (h : b.holds off = true) :
    placeAt off = some (.buf b) := by
  have hlo : 0x050 ≤ off := le_trans (by cases b <;> decide) ((Buf.holds_iff b off).1 h).1
  have hr : regMap.find? (fun p => p.1 == off) = none := by
    rw [List.find?_eq_none]
    intro p hp
    have := regMap_off_lt p hp
    simp only [beq_iff_eq]
    omega
  have hf : bufMap.find? (fun c => c.holds off) = some b := by
    have he : (fun c : Buf => c.holds off) = fun c => decide (c = b) :=
      funext fun c => Bool.eq_iff_iff.2 (by simp [Buf.holds_iff_eq h c])
    rw [he]
    cases b <;> rfl
  simp [placeAt, ha, hr, hf]

/-- Settles O41: the registers one by one, the buffers by their bounds. -/
theorem windowMapIsTheSpecs : Obligations.WindowMapIsTheSpecs := by
  refine ⟨by decide, fun off ha hlo hhi => ?_, fun off ha hlo hhi => ?_, fun off ha hlo hhi => ?_,
    fun off ha hlo hhi => ?_⟩
  all_goals exact placeAt_of_holds ha ((Buf.holds_iff _ off).2 ⟨hlo, Nat.lt_succ_of_le hhi⟩)

/-! ### Writes by place -/

/-- The read-only places of the window (R31, R32 (b)). -/
def Place.readOnly : Place → Bool
  | .reg .id | .reg .secRemain | .reg .offset | .reg .binary | .reg .code | .reg .decValid | .reg .decDropped
  | .reg .decTail | .buf .digest | .buf .codeChars => true
  | .reg .ctrl | .reg .cmd | .reg .status | .reg .inLen | .reg .keyLen | .reg .digits | .reg .timeStep
  | .reg .timestampLo | .reg .timestampHi | .reg .counterLo | .reg .counterHi | .buf .inBuf | .buf .keyBuf => false

theorem Place.busyProtected_of_readOnly {p : Place} (h : p.readOnly = true) : p.busyProtected = false := by
  revert h
  cases p with
  | reg r => cases r <;> decide
  | buf b => cases b <;> decide

/-- A read-only place takes no write, busy or not (R32 (b), R40). -/
theorem busWrite_readOnly {p : Place} (h : p.readOnly = true) (s : State) (off : Nat) (d : Word) :
    s.busWrite p off d = s := by
  obtain ⟨-, hp, -⟩ | ⟨-, ⟨r, rfl, hw⟩ | ⟨b, rfl, hw⟩⟩ := s.busWrite_cases p off d
  · simp [Place.busyProtected_of_readOnly h] at hp
  · rw [hw]
    cases r <;> simp_all [Place.readOnly, State.writeReg]
  · rw [hw]
    cases b <;> simp_all [Place.readOnly, State.writeBuf]

theorem Reg.readOnly_of_off (r : Reg) (h : r.off = 0 ∨ 0x030 ≤ r.off) : (Place.reg r).readOnly = true := by
  revert h
  cases r <;> decide

/-- The offsets of the read-only places (R31). -/
theorem placeAt_readOnly {off : BitVec 12} (ha : off.toNat % 4 = 0)
    (h : off.toNat = 0 ∨ (0x030 ≤ off.toNat ∧ off.toNat < 0x04C) ∨ (0x050 ≤ off.toNat ∧ off.toNat < 0x070)) :
    ∃ p, placeAt off.toNat = some p ∧ p.readOnly = true := by
  cases hp : placeAt off.toNat with
  | none =>
    rw [placeAt_eq_none _ off.isLt] at hp
    omega
  | some p =>
    refine ⟨p, rfl, ?_⟩
    cases p with
    | reg r =>
      have := placeAt_reg hp
      exact r.readOnly_of_off (by omega)
    | buf b =>
      obtain ⟨-, hb, -⟩ := placeAt_buf hp
      cases b with
      | digest | codeChars => rfl
      | inBuf | keyBuf =>
        simp only [Buf.base] at hb
        omega

/-- Settles O46: every such offset reaches a read-only place. -/
theorem readOnlyWritesAreIgnored : Obligations.ReadOnlyWritesAreIgnored := by
  intro s off d free ha h
  obtain ⟨p, hp, hro⟩ := placeAt_readOnly ha h
  exact ⟨by rw [respond_write hp, busWrite_readOnly hro], rfl⟩

/-- A write of `STATUS` takes effect in every state (R307). -/
theorem respond_write_status (s : State) (d free : Word) :
    s.respond (.write 0x00C 4 d) free = (.okay, { s with status := s.status.clearW1C d }) := by
  rw [respond_write (p := .reg .status) (by decide), busWrite_reg (.inr rfl)]
  rfl

/-- Settles O50: such a write is `Status.clearW1C` in every state. -/
theorem statusWriteClearsOnes : Obligations.StatusWriteClearsOnes := by
  intro s d free
  refine ⟨_, respond_write_status s d free, rfl, rfl, ?_, ?_, rfl, ?_, ?_⟩ <;>
    simp [Status.clearW1C, State.irq]

/-! ### Fields inside a word -/

/-- The number two appended bit vectors hold. -/
theorem toNat_append_eq_add {m n : Nat} (x : BitVec m) (y : BitVec n) :
    (x ++ y).toNat = x.toNat * 2 ^ n + y.toNat := by
  rw [BitVec.toNat_append, ← Nat.shiftLeft_add_eq_or_of_lt y.isLt, Nat.shiftLeft_eq]

/-- The low `n` bits of a word are the word masked to them (R32 (c)). -/
theorem setWidth_extractLsb'_zero (n : Nat) (d : Word) :
    (d.extractLsb' 0 n).setWidth 32 = d &&& (BitVec.allOnes n).setWidth 32 := by
  ext i hi
  simp [hi, Bool.and_comm]

/-- Bit 0 of a word as a word. -/
theorem and_one_eq_ite (d : Word) : d &&& 1 = if d.getLsbD 0 then 1 else 0 := by
  refine BitVec.and_one_eq_setWidth_ofBool_getLsbD.trans ?_
  cases d.getLsbD 0 <;> rfl

/-- A field of `n` bits leaves the bits above it 0 (R32 (a)). -/
theorem setWidth_and_shiftLeft_allOnes {n : Nat} (x : BitVec n) :
    x.setWidth 32 &&& BitVec.allOnes 32 <<< n = 0 := by
  ext i hi
  simp only [BitVec.getElem_and, BitVec.getElem_setWidth, BitVec.getElem_shiftLeft, BitVec.getElem_allOnes]
  by_cases h : i < n
  · simp [h]
  · simp [BitVec.getLsbD_of_ge x i (by omega)]

/-- `STATUS` bit by bit (R36). -/
theorem Status.word_getLsbD (x : Status) (k : Nat) : x.word.getLsbD k =
    if k = 0 then x.busy
    else if k = 1 then x.done
    else if k = 2 then x.err
    else if k = 3 then x.wign
    else if 8 ≤ k ∧ k ≤ 11 then x.errCode.getLsbD (k - 8)
    else false := by
  have hz (n i : Nat) : (0 : BitVec n).getLsbD i = false := BitVec.getLsbD_zero
  simp only [Status.word, BitVec.getLsbD_append, BitVec.getLsbD_ofBool, hz]
  obtain rfl | rfl | rfl | rfl | ⟨j, rfl⟩ : k = 0 ∨ k = 1 ∨ k = 2 ∨ k = 3 ∨ ∃ j, k = j + 4 := by
    by_cases h : 4 ≤ k
    · exact .inr (.inr (.inr (.inr ⟨k - 4, by omega⟩)))
    · omega
  · simp
  · simp
  · simp
  · simp
  · simp
    rw [← Bool.and_assoc]
    congr 1
    rw [Bool.eq_iff_iff]
    simp
    omega

/-! ### Registers read and written -/

/-- The field of an RW operand register, and of `CTRL` (R34, R41 to R46); none for the other registers. -/
def Reg.rwMask : Reg → Option Word
  | .ctrl => some 0x00000001
  | .inLen | .keyLen => some 0x0000FFFF
  | .digits => some 0x0000000F
  | .timeStep | .timestampLo | .timestampHi | .counterLo | .counterHi => some 0xFFFFFFFF
  | .id | .cmd | .status | .secRemain | .offset | .binary | .code | .decValid | .decDropped | .decTail => none

/-- A register that is written reads as the written word masked to its field (R32 (c)). -/
theorem readReg_writeReg_same {r : Reg} {mask : Word} (h : r.rwMask = some mask) (s : State) (d : Word) :
    (s.writeReg r d).readReg r = d &&& mask := by
  cases r <;> cases h
  case ctrl => exact (and_one_eq_ite d).symm
  case inLen | keyLen => exact setWidth_extractLsb'_zero 16 d
  case digits => exact setWidth_extractLsb'_zero 4 d
  all_goals exact BitVec.and_allOnes.symm

/-- A write of an RW register leaves every other register as it reads. -/
theorem readReg_writeReg_ne {r q : Reg} (hr : r.rwMask.isSome = true) (h : q ≠ r) (s : State) (d : Word) :
    (s.writeReg r d).readReg q = s.readReg q := by
  cases r <;> cases hr <;> cases q <;> try contradiction
  all_goals rfl

theorem writeReg_status_of_rwMask {r : Reg} (hr : r.rwMask.isSome = true) (s : State) (d : Word) :
    (s.writeReg r d).status = s.status := by
  cases r <;> cases hr <;> rfl

theorem writeReg_mem (r : Reg) (s : State) (d : Word) : (s.writeReg r d).mem = s.mem := by
  cases r <;> rfl

/-- Nothing reads unspecified on an idle block (R308). -/
theorem busRead_of_idle {s : State} (hb : s.status.busy = false) (p : Place) (off : Nat) (free : Word) :
    s.busRead p off free = s.valueAt p off := by
  simp [State.busRead, State.readUnspecified, hb]

/-- The offsets and masks of R34 and R41 to R46 are those of the RW registers. -/
theorem rwMask_of_table {off : BitVec 12} {mask : Word}
    (h : (off, mask) ∈ ([(0x004, 0x00000001), (0x010, 0x0000FFFF), (0x014, 0x0000FFFF), (0x018, 0x0000000F),
      (0x01C, 0xFFFFFFFF), (0x020, 0xFFFFFFFF), (0x024, 0xFFFFFFFF), (0x028, 0xFFFFFFFF),
      (0x02C, 0xFFFFFFFF)] : List (BitVec 12 × Word))) :
    ∃ r, placeAt off.toNat = some (.reg r) ∧ r.rwMask = some mask := by
  simp only [List.mem_cons, Prod.mk.injEq, List.not_mem_nil, or_false] at h
  rcases h with ⟨rfl, rfl⟩ | ⟨rfl, rfl⟩ | ⟨rfl, rfl⟩ | ⟨rfl, rfl⟩ | ⟨rfl, rfl⟩ | ⟨rfl, rfl⟩ | ⟨rfl, rfl⟩ | ⟨rfl, rfl⟩ |
    ⟨rfl, rfl⟩
  exacts [⟨.ctrl, rfl, rfl⟩, ⟨.inLen, rfl, rfl⟩, ⟨.keyLen, rfl, rfl⟩, ⟨.digits, rfl, rfl⟩, ⟨.timeStep, rfl, rfl⟩,
    ⟨.timestampLo, rfl, rfl⟩, ⟨.timestampHi, rfl, rfl⟩, ⟨.counterLo, rfl, rfl⟩, ⟨.counterHi, rfl, rfl⟩]

/-- Settles O47: every row of the table is the field of one RW register. -/
theorem registerWriteReadsBack : Obligations.RegisterWriteReadsBack := by
  intro s off mask d free free' hb h
  obtain ⟨r, hp, hm⟩ := rwMask_of_table h
  have hr : r.rwMask.isSome = true := by simp [hm]
  have hs : (s.writeReg r d).status = s.status := writeReg_status_of_rwMask hr s d
  refine ⟨s.writeReg r d, ?_, ?_, hs, writeReg_mem r s d, fun q hq => readReg_writeReg_ne hr ?_ s d⟩
  · rw [respond_write hp, busWrite_reg (.inl hb)]
  · rw [respond_read hp, busRead_of_idle (hs ▸ hb), State.valueAt, readReg_writeReg_same hm]
  · rintro rfl
    exact hq hp

/-! ### Buffer words (R54) -/

/-- A buffer word as a number. -/
theorem Memory.readWord_toNat (m : List Host.Cell) (a : Nat) : (Memory.readWord m a).toNat =
    (Memory.read m a).toNat + 2 ^ 8 * (Memory.read m (a + 1)).toNat + 2 ^ 16 * (Memory.read m (a + 2)).toNat +
      2 ^ 24 * (Memory.read m (a + 3)).toNat := by
  simp only [Memory.readWord, toNat_append_eq_add]
  ring

theorem lanes_getD (d : Word) {k : Nat} (hk : k < 4) : (lanes d).getD k 0 = d.extractLsb' (8 * k) 8 := by
  interval_cases k <;> rfl

/-- The aligned offsets from `0x100` to `0x29F` are the words of `IN_BUF` and `KEY_BUF` (R31). -/
theorem placeAt_inputBuf {off : Nat} (ha : off % 4 = 0) (hlo : 0x100 ≤ off) (hhi : off < 0x2A0) :
    ∃ b, (b = .inBuf ∨ b = .keyBuf) ∧ placeAt off = some (.buf b) := by
  by_cases h : off < 0x200
  · exact ⟨.inBuf, .inl rfl, placeAt_of_holds ha ((Buf.holds_iff _ _).2 ⟨hlo, h⟩)⟩
  · exact ⟨.keyBuf, .inr rfl, placeAt_of_holds ha ((Buf.holds_iff _ _).2 ⟨not_lt.1 h, hhi⟩)⟩

theorem writeBuf_of_input {b : Buf} (hb : b = .inBuf ∨ b = .keyBuf) (s : State) (off : Nat) (d : Word) :
    s.writeBuf b off d = { s with mem := Memory.writeBytes s.mem off (lanes d) } := by
  rcases hb with rfl | rfl <;> rfl

/-- Settles O48: the four lanes go to the four addresses of the word. -/
theorem bufferWordRoundTrip : Obligations.BufferWordRoundTrip := by
  refine ⟨fun s b off => Memory.readWord_toNat s.mem off, fun s off d free free' hb ha hlo hhi => ?_⟩
  obtain ⟨b, hin, hp⟩ := placeAt_inputBuf ha hlo hhi
  have hl : (lanes d).length = 4 := rfl
  have hw := writeBuf_of_input hin s off.toNat d
  have hb' : (s.writeBuf b off.toNat d).status.busy = false := by rw [hw, hb]
  have hm : (s.writeBuf b off.toNat d).mem = Memory.writeBytes s.mem off.toNat (lanes d) := by rw [hw]
  refine ⟨s.writeBuf b off.toNat d, ?_, ?_, fun k hk => ?_, fun a hk => ?_, by rw [hw]⟩
  · rw [respond_write hp, busWrite_buf (.inl hb)]
  · rw [respond_read hp, busRead_of_idle hb', State.valueAt, hm, Memory.readWord_lanes]
  · rw [hm, Memory.read_writeBytes, if_pos (by omega), Nat.add_sub_cancel_left, lanes_getD d hk]
  · rw [hm, Memory.read_writeBytes, if_neg (by omega)]

/-! ### What a register reads as -/

/-- The reserved bits of `STATUS` (R36). -/
theorem Status.word_reserved (x : Status) : x.word &&& 0xFFFFF0F0 = 0 := by
  have hmask : ∀ k < 12, k < 4 ∨ 8 ≤ k → (0xFFFFF0F0 : Word).getLsbD k = false := by decide
  refine BitVec.eq_of_getLsbD_eq fun k hk => ?_
  refine (BitVec.getLsbD_and ..).trans (Eq.trans ?_ BitVec.getLsbD_zero.symm)
  by_cases h : k < 4 ∨ (8 ≤ k ∧ k ≤ 11)
  · rw [hmask k (by omega) (by omega), Bool.and_false]
  · rw [Status.word_getLsbD, if_neg (by omega), if_neg (by omega), if_neg (by omega), if_neg (by omega),
      if_neg (by omega), Bool.false_and]

theorem readReg_reserved (s : State) {r : Reg} {mask : Word}
    (h : (r, mask) ∈ ([(.ctrl, 0xFFFFFFFE), (.status, 0xFFFFF0F0), (.inLen, 0xFFFF0000), (.keyLen, 0xFFFF0000),
        (.digits, 0xFFFFFFF0), (.offset, 0xFFFFFFF0), (.binary, 0x80000000), (.decValid, 0xFFFFFE00),
        (.decDropped, 0xFFFFFE00), (.decTail, 0xFFFFFFF8)] : List (Reg × Word))) : s.readReg r &&& mask = 0 := by
  simp only [List.mem_cons, Prod.mk.injEq, List.not_mem_nil, or_false] at h
  rcases h with ⟨rfl, rfl⟩ | ⟨rfl, rfl⟩ | ⟨rfl, rfl⟩ | ⟨rfl, rfl⟩ | ⟨rfl, rfl⟩ | ⟨rfl, rfl⟩ | ⟨rfl, rfl⟩ | ⟨rfl, rfl⟩ |
    ⟨rfl, rfl⟩ | ⟨rfl, rfl⟩
  case inl => cases h : s.ie <;> simp [State.readReg, h]
  case inr.inl => exact s.status.word_reserved
  all_goals exact setWidth_and_shiftLeft_allOnes _

/-- Settles O49: narrow fields are zero extended, `STATUS` is taken bit by bit. -/
theorem reservedBitsReadZero : Obligations.ReservedBitsReadZero := by
  intro s
  refine ⟨fun off r free hp hu => ?_, rfl, ?_, rfl, s.status.word_getLsbD, ?_, ?_, ?_, rfl, toNat_append_eq_add _ _,
    toNat_append_eq_add _ _, rfl, ?_, ?_, rfl, ?_, ?_, ?_, fun r mask h => readReg_reserved s h⟩
  · rw [respond_read hp, State.busRead, hu]
    rfl
  · cases h : s.ie <;> simp [State.readReg, h]
  all_goals exact BitVec.toNat_setWidth_of_le (by decide)

end Sys2Proof.Machine
end

section
/-! PROOFS, family 10_state. Which agent changes which piece of state: the configuration, `CMD` and `TS_SAMPLE`, `WIGN`;
then the run of a wall-clock TCOUNT, and the reset values. -/

namespace Sys2Proof.Machine

variable {s t : State}

/-! ### The step, by its input's event -/

theorem step_quiet (hr : s.nextInput.rst = false) (he : s.nextInput.event = .quiet) : step s = .next s.driven := by
  simp [step, react, hr, he, State.driven]

theorem step_engine (hr : s.nextInput.rst = false) (he : s.nextInput.event = .engine) :
    step s = engineStep s.driven := by
  simp [step, react, hr, he, State.driven]

theorem step_host {x : HostTxn} (hr : s.nextInput.rst = false) (he : s.nextInput.event = .host x) :
    step s = hostStep x s.nextInput.freeData s.driven := by
  simp [step, react, hr, he, State.driven]

theorem engineStep_idle (h : s.phase = .idle) : engineStep s = .next s := by
  simp [engineStep, h]

theorem engineStep_running {op : BitVec 4} {w : Word} {i : Instr} (h : s.phase = .running op w)
    (hd : decodeCmd w = .legal i) : engineStep s = exec i s := by
  simp [engineStep, h, hd]

/-! ### State that only a host write of a register changes -/

/-- A piece of state that the pins, the bus port, the engine, an ignored write and a buffer write leave as it is. -/
structure HostOnly {α : Type} (f : State → α) : Prop where
  driven : ∀ s : State, f s.driven = f s
  resp : ∀ (s : State) r, f { s with resp := r } = f s
  error : ∀ (s : State) e, f (s.raiseCmdError e) = f s
  commit : ∀ (s : State) i, f (commitOf i s).finish = f s
  wign : ∀ s : State, f s.setWign = f s
  buf : ∀ (s : State) b off d, f (s.writeBuf b off d) = f s

namespace HostOnly

variable {α : Type} {f : State → α}

theorem engineStep (hf : HostOnly f) (h : engineStep s = .next t) : f t = f s := by
  obtain ⟨-, rfl⟩ | ⟨-, ⟨e, rfl⟩ | ⟨i, -, rfl⟩⟩ := engineStep_next h
  · rfl
  · exact hf.error s e
  · exact hf.commit s i

/-- Where only a write of the register `q` changes it, a host write elsewhere leaves it. -/
theorem busWrite (hf : HostOnly f) {q : Reg} (hq : ∀ (u : State) r d, r ≠ q → f (u.writeReg r d) = f u) {p : Place}
    (hp : p ≠ .reg q) (s : State) (off : Nat) (d : Word) : f (s.busWrite p off d) = f s := by
  obtain ⟨-, -, hw⟩ | ⟨-, ⟨r, rfl, hw⟩ | ⟨b, -, hw⟩⟩ := s.busWrite_cases p off d <;> rw [hw]
  · exact hf.wign s
  · exact hq s r d (by simpa using hp)
  · exact hf.buf s b off d

/-- Where only a write of the register `q` changes it, a step without such a write or a reset leaves it. -/
theorem step (hf : HostOnly f) {q : Reg} (hq : ∀ (u : State) r d, r ≠ q → f (u.writeReg r d) = f u)
    (hr : s.nextInput.rst = false) (h : step s = .next t)
    (hev : ∀ d, s.nextInput.event ≠ .host (.write q.addr 4 d)) : f t = f s := by
  obtain ⟨-, rfl⟩ | ⟨-, he⟩ | ⟨off, r, -, rfl⟩ | ⟨off, p, d, r, he, hp, rfl⟩ := step_next hr h
  · exact hf.driven s
  · exact (hf.engineStep he).trans (hf.driven s)
  · exact (hf.resp _ _).trans (hf.driven s)
  · have hne : p ≠ .reg q := fun hpq => hev d ((place_eq_reg_iff hp q).1 hpq ▸ he)
    exact ((hf.resp _ _).trans (hf.busWrite hq hne _ _ _)).trans (hf.driven s)

theorem ie : HostOnly State.ie :=
  ⟨fun _ => rfl, fun _ _ => rfl, fun _ _ => rfl, by simp, fun _ => rfl, fun _ b _ _ => by cases b <;> rfl⟩

theorem digits : HostOnly State.digits :=
  ⟨fun _ => rfl, fun _ _ => rfl, fun _ _ => rfl, by simp, fun _ => rfl, fun _ b _ _ => by cases b <;> rfl⟩

theorem timeStep : HostOnly State.timeStep :=
  ⟨fun _ => rfl, fun _ _ => rfl, fun _ _ => rfl, by simp, fun _ => rfl, fun _ b _ _ => by cases b <;> rfl⟩

theorem cmd : HostOnly State.cmd :=
  ⟨fun _ => rfl, fun _ _ => rfl, fun _ _ => rfl, by simp, fun _ => rfl, fun _ b _ _ => by cases b <;> rfl⟩

theorem tsSample : HostOnly State.tsSample :=
  ⟨fun _ => rfl, fun _ _ => rfl, fun _ _ => rfl, by simp, fun _ => rfl, fun _ b _ _ => by cases b <;> rfl⟩

end HostOnly

section
variable {r : Reg} (s : State) (d : Word)

theorem writeReg_ie_of_ne (h : r ≠ .ctrl) : (s.writeReg r d).ie = s.ie := by
  cases r <;> trivial

theorem writeReg_digits_of_ne (h : r ≠ .digits) : (s.writeReg r d).digits = s.digits := by
  cases r <;> trivial

theorem writeReg_timeStep_of_ne (h : r ≠ .timeStep) : (s.writeReg r d).timeStep = s.timeStep := by
  cases r <;> trivial

theorem writeReg_cmd_of_ne (h : r ≠ .cmd) : (s.writeReg r d).cmd = s.cmd := by
  cases r <;> trivial

theorem writeReg_tsSample_of_ne (h : r ≠ .cmd) : (s.writeReg r d).tsSample = s.tsSample := by
  cases r <;> trivial

end

/-- Settles O52: the three registers are host-only state. -/
theorem onlyTheHostWritesTheConfiguration : Obligations.OnlyTheHostWritesTheConfiguration := fun _ _ hr h =>
  ⟨HostOnly.ie.step (q := .ctrl) (fun u _ => writeReg_ie_of_ne u) hr h,
    HostOnly.digits.step (q := .digits) (fun u _ => writeReg_digits_of_ne u) hr h,
    HostOnly.timeStep.step (q := .timeStep) (fun u _ => writeReg_timeStep_of_ne u) hr h⟩

/-! ### The start of a command -/

/-- A host write that starts the engine is a write of `CMD` to a block that is not busy (R35, R143). -/
theorem busWrite_starts {p : Place} {off : Nat} {d : Word} (hi : s.phase = .idle)
    (h : (s.busWrite p off d).phase ≠ .idle) :
    p = .reg .cmd ∧ s.status.busy = false ∧ s.busWrite p off d = s.accept d := by
  obtain ⟨-, -, hw⟩ | ⟨hb, ⟨r, rfl, hw⟩ | ⟨b, -, hw⟩⟩ := s.busWrite_cases p off d <;> rw [hw] at h
  · exact absurd hi h
  · cases r with
    | cmd => exact ⟨rfl, by simpa [Place.busyProtected] using hb, hw⟩
    | _ => exact absurd hi h
  · cases b <;> exact absurd hi h

/-- What the step's agent finds when `RST` is released. -/
theorem driven_eq (hr : s.nextInput.rst = false) :
    s.driven = { s with inputs := s.inputs.tail, wallclock := s.nextInput.wallclock, rst := false } := by
  simp [State.driven, State.drive, State.dropInput, hr]

/-- A step from `Idle` to `Running` is the host's accepted write of `CMD`. -/
theorem step_starts (hr : s.nextInput.rst = false) (h : step s = .next t) (hi : s.phase = .idle)
    (hp : t.phase ≠ .idle) : ∃ w r, s.nextInput.event = .host (.write 0x008 4 w) ∧ s.status.busy = false ∧
      t = { s.driven.accept w with resp := r } := by
  obtain ⟨-, rfl⟩ | ⟨-, he⟩ | ⟨off, r, -, rfl⟩ | ⟨off, p, d, r, he, hpl, rfl⟩ := step_next hr h
  · exact absurd hi hp
  · obtain ⟨-, rfl⟩ | ⟨hn, -⟩ := engineStep_next he
    · exact absurd hi hp
    · exact absurd hi hn
  · exact absurd hi hp
  · obtain ⟨rfl, hb, hw⟩ := busWrite_starts (s := s.driven) hi hp
    have ho : off = 0x008 := (place_eq_reg_iff hpl .cmd).1 rfl
    exact ⟨d, r, ho ▸ he, hb, by rw [hw]⟩

/-- Settles O53: a start is an acceptance, and `CMD` and `TS_SAMPLE` are host-only state. -/
theorem onlyACommandWriteStartsTheEngine : Obligations.OnlyACommandWriteStartsTheEngine := by
  intro s t hr h
  refine ⟨fun hi op w hp => ?_, fun hev => ⟨?_, ?_⟩, fun hq => ?_⟩
  · obtain ⟨v, r, he, hb, rfl⟩ := step_starts hr h hi (by simp [hp])
    cases hp
    exact ⟨he, hb, rfl, rfl⟩
  · exact HostOnly.cmd.step (q := .cmd) (fun u _ => writeReg_cmd_of_ne u) hr h hev
  · exact HostOnly.tsSample.step (q := .cmd) (fun u _ => writeReg_tsSample_of_ne u) hr h hev
  · rw [← driven_eq hr]
    obtain hq | ⟨hq, hi⟩ := hq
    · rw [step_quiet hr hq] at h
      cases h
      rfl
    · rw [step_engine hr hq, engineStep_idle (s := s.driven) hi] at h
      cases h
      rfl

/-! ### `WIGN` (R40) -/

theorem engineStep_wign (h : engineStep s = .next t) : t.status.wign = s.status.wign := by
  obtain ⟨-, rfl⟩ | ⟨-, ⟨e, rfl⟩ | ⟨i, -, rfl⟩⟩ := engineStep_next h
  · rfl
  · rfl
  · simp

/-- `WIGN` after a write to a register that takes effect. -/
theorem writeReg_wign (s : State) (r : Reg) (d : Word) : (s.writeReg r d).status.wign = true ↔
    s.status.wign = true ∧ ¬ (r = .status ∧ d.getLsbD 3 = true) := by
  cases r <;> simp [State.writeReg, Status.clearW1C]

/-- `WIGN` after a host write. -/
theorem busWrite_wign (s : State) (p : Place) (off : Nat) (d : Word) :
    (s.busWrite p off d).status.wign = true ↔
      (s.status.busy = true ∧ p.busyProtected = true) ∨
      (s.status.wign = true ∧ ¬ (p = .reg .status ∧ d.getLsbD 3 = true)) := by
  obtain ⟨hb, hp, hw⟩ | ⟨hn, hw⟩ := s.busWrite_cases p off d
  · simp [hw, hb, hp]
  · have hn' : ¬ (s.status.busy = true ∧ p.busyProtected = true) := by
      rintro ⟨h1, h2⟩
      simp [h1, h2] at hn
    obtain ⟨r, rfl, hw⟩ | ⟨b, rfl, hw⟩ := hw
    · rw [hw, writeReg_wign]
      simp [hn']
    · have hs : (s.writeBuf b off d).status = s.status := by cases b <;> rfl
      simp [hw, hs, hn']

/-- Settles O51: only a host write moves `WIGN`, by `busWrite_wign`. -/
theorem wignIsSticky : Obligations.WignIsSticky := by
  intro s t hr h
  obtain ⟨he, rfl⟩ | ⟨he, hs⟩ | ⟨off, r, he, rfl⟩ | ⟨off, p, d, r, he, hp, rfl⟩ := step_next hr h
  · simp [he, State.driven]
  · simp [he, engineStep_wign hs, State.driven]
  · simp [he, State.driven]
  · have hprot : (∃ off' d', s.nextInput.event = .host (.write off' 4 d') ∧ protectedOffset off') ↔
        p.busyProtected = true := by
      simp [he, placeAt_busyProtected hp]
    have hclear : (∃ d', s.nextInput.event = .host (.write 0x00C 4 d') ∧ d'.getLsbD 3 = true) ↔
        p = .reg .status ∧ d.getLsbD 3 = true := by
      have ho : p = .reg .status ↔ off = 0x00C := place_eq_reg_iff hp .status
      simp [he, ho]
    rw [hprot, hclear]
    exact busWrite_wign s.driven p off.toNat d

/-! ### A wall-clock TCOUNT (R143, R241, R310) -/

/-- A step in which the host writes `CMD` of a block that is not busy is an acceptance (R143). -/
theorem step_accepts {w : Word} (hr : s.nextInput.rst = false)
    (he : s.nextInput.event = .host (.write 0x008 4 w)) (hb : s.status.busy = false) :
    step s = .next { s.driven.accept w with resp := some .okay } := by
  have hp : placeAt (0x008 : BitVec 12).toNat = some (.reg .cmd) := placeAt_addr .cmd
  have hb' : s.driven.status.busy = false := hb
  rw [step_host hr he, hostStep, respond_write hp, busWrite_reg (.inl hb')]
  rfl

/-- The window a passing TCOUNT commits is the window of its timestamp (R240). -/
theorem holdsWindow_putWindow (s : State) (x : Bool) :
    holdsWindow (s.timeOperand x).toNat s.timeStep.toNat (s.putWindow x) := by
  have h1 : (s.timeOperand x).toNat / s.timeStep.toNat < 2 ^ 64 :=
    (Nat.div_le_self _ _).trans_lt (s.timeOperand x).isLt
  have h2 := s.timeStep.isLt
  refine ⟨?_, ?_⟩
  · rw [State.putWindow_counter, windowCounter, BitVec.toNat_ofNat, Nat.mod_eq_of_lt h1]
  · rw [State.putWindow_secRemain, windowRemain, BitVec.toNat_ofNat, Nat.mod_eq_of_lt (by omega)]

/-- The engine's turn on an accepted TCOUNT whose time step is not 0. -/
theorem engineStep_tcount {op : BitVec 4} {w : Word} {x : Bool} (hp : s.phase = .running op w)
    (hd : decodeCmd w = .legal (.tcount x)) (hs : s.timeStep.toNat ≠ 0) :
    engineStep s = .next (s.putWindow x).finish := by
  rw [engineStep_running hp hd, exec_of_pass _ _ ((errorOf_tcount s x).2 hs)]
  rfl

/-- Settles O24: acceptance samples the level the pins have in its own step, and TCOUNT reads the sample. -/
theorem tcountTakesTheClockAtAcceptance : Obligations.TcountTakesTheClockAtAcceptance := by
  intro s a b rest hinv hidle hstep hin har hae hbr hbe
  have ha : s.nextInput = a := by simp [State.nextInput, hin]
  have hb : s.status.busy = false := by
    rw [← Bool.not_eq_true, hinv.busyRunning]
    simp [hidle]
  obtain ⟨u, h1, hui, hup, hut, hus, hue⟩ : ∃ u, step s = .next u ∧ u.nextInput = b ∧ u.phase = .running 5 5 ∧
      u.tsSample = a.wallclock ∧ u.timeStep = s.timeStep ∧ u.status.err = false := by
    refine ⟨_, step_accepts (ha ▸ har) (ha ▸ hae) hb, ?_, rfl, ?_, rfl, rfl⟩
    · simp [State.nextInput, State.driven, hin]
    · simp [State.driven, ha]
  have h2 : step u = .next (u.driven.putWindow false).finish := by
    rw [step_engine (hui ▸ hbr) (hui ▸ hbe)]
    exact engineStep_tcount (s := u.driven) hup (by decide) (hus ▸ hstep)
  have ht : u.driven.timeOperand false = a.wallclock := hut
  have hw := holdsWindow_putWindow u.driven false
  rw [ht] at hw
  refine ⟨_, (core_run_succ 1 s u h1).trans (core_run_succ 0 u _ h2), ?_, hus ▸ hw, rfl, ?_, rfl⟩
  · rw [State.finish_timestamp, State.putWindow_timestamp, ht]
  · simpa [State.driven] using hue

/-- Settles O55: every value is the one `State.reset` names. -/
theorem resetLeavesTheSpecsValues : Obligations.ResetLeavesTheSpecsValues :=
  ⟨rfl, rfl, rfl, by decide, rfl, rfl, rfl, rfl, by decide, by decide, rfl, rfl, rfl, rfl, rfl, rfl, rfl, fun _ _ => rfl,
    rfl, rfl⟩

end Sys2Proof.Machine
end

section
/-! PROOFS, family 20_memory. Malformed and well-formed transactions, the bus addresses of the window, reads. -/

namespace Sys2Proof.Machine

/-! ### Malformed and well-formed transactions (R84, R85, R276) -/

/-- A transaction that is not malformed is a word access of a mapped offset. -/
theorem mapped_of_not_malformed {off : BitVec 12} {bytes : Nat} (h : ¬ malformed off bytes) :
    bytes = 4 ∧ ∃ p, placeAt off.toNat = some p := by
  rw [← busTarget_eq_none] at h
  obtain ⟨p, hp⟩ := Option.ne_none_iff_exists'.1 h
  exact ⟨(busTarget_some hp).1, p, (busTarget_some hp).2⟩

theorem respond_of_malformed {x : HostTxn} (h : malformed x.off x.bytes) (s : State) (free : Word) :
    s.respond x free = (.busError, s) := by
  cases x with
  | read off bytes => simp only [State.respond, (busTarget_eq_none off bytes).2 h]
  | write off bytes d => simp only [State.respond, (busTarget_eq_none off bytes).2 h]

/-- The host's step records a bus error as a fault (R276). -/
theorem hostStep_of_busError {x : HostTxn} {free : Word} {s t : State} (h : s.respond x free = (.busError, t)) :
    hostStep x free s = .fault (.busError x.off) := by
  rw [hostStep, h]

/-- The host's step leaves any other response on the port. -/
theorem hostStep_of_respond {x : HostTxn} {free : Word} {s t : State} {r : Response}
    (h : s.respond x free = (r, t)) (hr : r ≠ .busError) : hostStep x free s = .next { t with resp := some r } := by
  rw [hostStep, h]
  cases r with
  | busError => exact absurd rfl hr
  | okayData v | okay | undefinedByReset v => rfl

/-- Settles O42: a malformed transaction reaches nothing, any other reaches a place. -/
theorem malformedTransactionsFault : Obligations.MalformedTransactionsFault := by
  intro s off bytes d free
  refine ⟨fun h => ?_, fun h => ?_⟩
  · have hr := respond_of_malformed (x := .read off bytes) h s free
    have hw := respond_of_malformed (x := .write off bytes d) h s free
    exact ⟨hr, hw, hostStep_of_busError hr, hostStep_of_busError hw⟩
  · obtain ⟨rfl, p, hp⟩ := mapped_of_not_malformed h
    exact ⟨⟨_, respond_read hp, hostStep_of_respond (respond_read hp) nofun⟩,
      ⟨_, respond_write hp, hostStep_of_respond (respond_write hp) nofun⟩⟩

/-! ### The bus addresses of the window (R83) -/

/-- The block decodes exactly the bus addresses of its 4096 offsets. -/
theorem windowOffset_eq_some_iff (a : Nat) (off : BitVec 12) : windowOffset a = some off ↔ a = busAddress off := by
  have hoff := off.isLt
  unfold windowOffset busAddress Config.windowBytes
  split
  case isTrue h =>
    rw [Option.some_inj, ← BitVec.toNat_inj, BitVec.toNat_ofNat, Nat.mod_eq_of_lt (by omega)]
    omega
  case isFalse h =>
    refine ⟨nofun, fun ha => absurd ha ?_⟩
    omega

/-- Settles O54: the two directions of `windowOffset_eq_some_iff`. -/
theorem windowAddressesAreBasePlusOffset : Obligations.WindowAddressesAreBasePlusOffset :=
  ⟨fun off => (windowOffset_eq_some_iff _ off).2 rfl, fun a off => (windowOffset_eq_some_iff a off).1⟩

/-! ### Reads (R86) -/

/-- Settles O43: the response to a read of a mapped offset is `State.busRead`. -/
theorem readsHaveNoSideEffect : Obligations.ReadsHaveNoSideEffect := by
  intro s off p free hp
  rw [respond_read hp, State.busRead]

end Sys2Proof.Machine
end

section
/-! PROOFS, family 30_encoding. The fields of a command word as numbers, then what each answer of the decoder says of
them; the round trip, the ten words, the legal words and the illegal ones follow from these. -/

namespace Sys2Proof

variable {v w : Word} {i : Instr}

/-! ### The fields of a word as numbers (R110) -/

theorem extractLsb'_eq_iff (w : Word) (a n : Nat) (x : BitVec n) :
    w.extractLsb' a n = x ↔ w.toNat / 2 ^ a % 2 ^ n = x.toNat := by
  rw [← BitVec.toNat_inj, BitVec.extractLsb'_toNat, Nat.shiftRight_eq_div_pow]

theorem opField_toNat (w : Word) : (opField w).toNat = w.toNat % 16 := by
  simp [opField]

theorem tsField_toNat (w : Word) : (tsField w).toNat = w.toNat / 256 % 2 :=
  Nat.toNat_testBit w.toNat 8

theorem reservedClear_iff (w : Word) :
    reservedClear w = true ↔ w.toNat / 512 = 0 ∧ w.toNat / 16 % 16 = 0 := by
  have hw := w.isLt
  simp only [reservedClear, Bool.and_eq_true, beq_iff_eq, extractLsb'_eq_iff, BitVec.ofNat_eq_ofNat,
    BitVec.toNat_ofNat]
  omega

/-- A word without reserved bits is the sum of its two fields. -/
theorem toNat_of_reservedClear (h : reservedClear w = true) :
    w.toNat = (opField w).toNat + 256 * (tsField w).toNat := by
  rw [reservedClear_iff] at h
  rw [opField_toNat, tsField_toNat]
  omega

/-! ### The two answers of the decoder (R114, R116) -/

/-- A word that decodes to a command has no reserved bit and the command's two fields. -/
theorem decodeCmd_legal (h : decodeCmd w = .legal i) :
    reservedClear w = true ∧ (opField w).toNat = i.opcode.toNat ∧ tsField w = i.explicitTs := by
  unfold decodeCmd at h
  repeat' split at h
  all_goals cases h
  all_goals simp_all [Instr.opcode, Instr.explicitTs]

/-- What a word shows when it is illegal for the reason `why` (R116). -/
def IllegalWord.shownBy (w : Word) : IllegalWord → Prop
  | .reservedBits => reservedClear w = false
  | .explicitTsNotAllowed => tsField w = true ∧ opField w ≠ 5 ∧ opField w ≠ 6
  | .reservedOpcode => 8 ≤ (opField w).toNat

/-- The decoder refuses a word only for a reason the word shows. -/
theorem decodeCmd_illegal {why : IllegalWord} (h : decodeCmd w = .illegal why) : why.shownBy w := by
  unfold decodeCmd at h
  repeat' split at h
  all_goals cases h
  · next hclear => simpa [IllegalWord.shownBy] using hclear
  · next h5 h6 hts => exact ⟨hts, by simpa using h5, by simpa using h6⟩
  · next h5 h6 _ h0 h1 h2 h3 h4 h7 =>
    simp only [beq_iff_eq, ← BitVec.toNat_inj, BitVec.ofNat_eq_ofNat, BitVec.toNat_ofNat] at h0 h1 h2 h3 h4 h5 h6 h7
    rw [IllegalWord.shownBy]
    omega

theorem Instr.opcode_le (i : Instr) : i.opcode.toNat ≤ 7 := by
  cases i <;> simp [Instr.opcode]

/-- Only TCOUNT and TOTP take `EXPLICIT_TS` (R112). -/
theorem Instr.opcode_of_explicitTs (h : i.explicitTs = true) : i.opcode.toNat = 5 ∨ i.opcode.toNat = 6 := by
  cases i with
  | tcount => exact .inl rfl
  | totp => exact .inr rfl
  | _ => cases h

/-- A word that decodes to a command shows no reason to be illegal. -/
theorem not_shownBy_of_decodeCmd_legal (h : decodeCmd w = .legal i) (why : IllegalWord) : ¬ why.shownBy w := by
  obtain ⟨hclear, hop, hts⟩ := decodeCmd_legal h
  cases why with
  | reservedBits => simp [IllegalWord.shownBy, hclear]
  | explicitTsNotAllowed =>
    rintro ⟨ht, h5, h6⟩
    rw [Ne, ← BitVec.toNat_inj, hop] at h5 h6
    exact (Instr.opcode_of_explicitTs (hts ▸ ht)).elim h5 h6
  | reservedOpcode =>
    have := i.opcode_le
    simp only [IllegalWord.shownBy]
    omega

/-- The decoder refuses exactly the words that show a reason (R116). -/
theorem exists_decodeCmd_illegal_iff (w : Word) :
    (∃ why, decodeCmd w = .illegal why) ↔ ∃ why : IllegalWord, why.shownBy w := by
  refine ⟨fun ⟨why, h⟩ => ⟨why, decodeCmd_illegal h⟩, fun ⟨why, hs⟩ => ?_⟩
  cases h : decodeCmd w with
  | legal i => exact absurd hs (not_shownBy_of_decodeCmd_legal h why)
  | illegal why' => exact ⟨why', rfl⟩

/-! ### Decoding and encoding -/

/-- At most one word decodes to a command. -/
theorem decodeCmd_legal_unique (hv : decodeCmd v = .legal i) (hw : decodeCmd w = .legal i) : v = w := by
  obtain ⟨hcv, hov, htv⟩ := decodeCmd_legal hv
  obtain ⟨hcw, how, htw⟩ := decodeCmd_legal hw
  refine BitVec.eq_of_toNat_eq ?_
  rw [toNat_of_reservedClear hcv, toNat_of_reservedClear hcw, hov, how, htv, htw]

/-- Every command has the properties of `Laws.Encoding.Statement`. -/
theorem encoding_statement (i : Instr) : Laws.Encoding.Statement i := by
  cases i with
  | nop => exact Laws.Encoding.nop
  | decode => exact Laws.Encoding.decode
  | hmac => exact Laws.Encoding.hmac
  | reduce => exact Laws.Encoding.reduce
  | hotp => exact Laws.Encoding.hotp
  | tcount x => exact Laws.Encoding.tcount x
  | totp x => exact Laws.Encoding.totp x
  | clear => exact Laws.Encoding.clear

theorem legalWord_encode (i : Instr) : legalWord (encode i) = true :=
  (encoding_statement i).1

theorem decodeCmd_encode (i : Instr) : decodeCmd (encode i) = .legal i := by
  obtain ⟨-, hdecode, -⟩ := encoding_statement i
  exact hdecode

theorem decodeCmd_legal_iff (w : Word) (i : Instr) : decodeCmd w = .legal i ↔ encode i = w := by
  refine ⟨decodeCmd_legal_unique (decodeCmd_encode i), ?_⟩
  rintro rfl
  exact decodeCmd_encode i

/-- Settles O2: `encode i` decodes to `i`, and no second word does. -/
theorem decodeAndEncodeAgree : Obligations.DecodeAndEncodeAgree :=
  decodeCmd_legal_iff

/-- Settles O1: the legal words are the encodings of their commands, the others fail the decoder's tests. -/
theorem tableWordsDecodeToTheirCommands : Obligations.TableWordsDecodeToTheirCommands :=
  ⟨decodeCmd_encode .nop, decodeCmd_encode .decode, decodeCmd_encode .hmac, decodeCmd_encode .reduce,
    decodeCmd_encode .hotp, decodeCmd_encode (.tcount true), decodeCmd_encode (.totp false), decodeCmd_encode .clear,
    by decide⟩

/-! ### The ten words that decode (R114) -/

theorem encode_mem_tenWords (i : Instr) :
    encode i ∈ [(0x0 : Word), 0x1, 0x2, 0x3, 0x4, 0x5, 0x6, 0x7, 0x105, 0x106] := by
  cases i with
  | tcount x | totp x => cases x <;> decide
  | _ => decide

/-- Settles O3: a word that decodes is the encoding of a command, and these are the ten words. -/
theorem exactlyTenWordsDecode : Obligations.ExactlyTenWordsDecode := by
  refine ⟨⟨decodeCmd_encode .nop, decodeCmd_encode .decode, decodeCmd_encode .hmac, decodeCmd_encode .reduce,
    decodeCmd_encode .hotp, decodeCmd_encode (.tcount false), decodeCmd_encode (.totp false), decodeCmd_encode .clear,
    decodeCmd_encode (.tcount true), decodeCmd_encode (.totp true)⟩, fun w hw => ?_⟩
  cases h : decodeCmd w with
  | legal i => exact absurd ((decodeCmd_legal_iff w i).1 h ▸ encode_mem_tenWords i) hw
  | illegal why => exact ⟨why, rfl⟩

/-! ### The legal words (R113) -/

/-- A word of R113's first case as a number. -/
theorem legalPlain_iff (w : Word) :
    legalPlain w = true ↔ w.toNat ≤ 7 ∧ w.toNat ≠ 5 ∧ w.toNat ≠ 6 := by
  have hw := w.isLt
  simp only [legalPlain, Bool.and_eq_true, decide_eq_true_eq, bne_iff_ne, beq_iff_eq, Ne, extractLsb'_eq_iff,
    BitVec.extractLsb'_toNat, Nat.shiftRight_eq_div_pow, BitVec.ofNat_eq_ofNat, BitVec.toNat_ofNat]
  omega

/-- A word of R113's second case as a number. -/
theorem legalTimed_iff (w : Word) :
    legalTimed w = true ↔ (w.toNat % 16 = 5 ∨ w.toNat % 16 = 6) ∧ w.toNat / 512 = 0 ∧ w.toNat / 16 % 16 = 0 := by
  have hw := w.isLt
  simp only [legalTimed, Bool.and_eq_true, Bool.or_eq_true, beq_iff_eq, extractLsb'_eq_iff, BitVec.ofNat_eq_ofNat,
    BitVec.toNat_ofNat]
  omega

/-- A legal word shows no reason to be illegal. -/
theorem not_shownBy_of_legalWord (h : legalWord w = true) (why : IllegalWord) : ¬ why.shownBy w := by
  rw [legalWord, Bool.or_eq_true, legalPlain_iff, legalTimed_iff] at h
  cases why with
  | reservedBits =>
    rw [IllegalWord.shownBy, ← Bool.not_eq_true, reservedClear_iff]
    omega
  | explicitTsNotAllowed =>
    rintro ⟨ht, h5, h6⟩
    have hts := tsField_toNat w
    rw [ht, Bool.toNat_true] at hts
    rw [Ne, ← BitVec.toNat_inj, opField_toNat] at h5 h6
    simp only [BitVec.ofNat_eq_ofNat, BitVec.toNat_ofNat] at h5 h6
    omega
  | reservedOpcode =>
    rw [IllegalWord.shownBy, opField_toNat]
    omega

/-- Settles O4: a legal word shows no reason for the decoder to refuse it, and the encodings are legal. -/
theorem legalWordsAreTheDecodableOnes : Obligations.LegalWordsAreTheDecodableOnes := by
  refine fun w => ⟨fun hl => ?_, fun ⟨i, h⟩ => (decodeCmd_legal_iff w i).1 h ▸ legalWord_encode i⟩
  cases h : decodeCmd w with
  | legal i => exact ⟨i, rfl⟩
  | illegal why => exact absurd (decodeCmd_illegal h) (not_shownBy_of_legalWord hl why)

end Sys2Proof

/-! ### The failure of an illegal word (R116, R147) -/

namespace Sys2Proof.Machine

variable {s : State} {op : BitVec 4} {w : Word}

theorem engineStep_illegal {why : IllegalWord} (hp : s.phase = .running op w) (hd : decodeCmd w = .illegal why) :
    engineStep s = .next (s.raiseCmdError .illegalCmd) := by
  simp [engineStep, hp, hd]

/-- R116's list of illegal words, read off the word's bits: each entry is a reason the word shows. -/
theorem exists_shownBy (h : 8 ≤ (w.extractLsb' 0 4).toNat ∨ w.extractLsb' 4 4 ≠ 0 ∨ w.extractLsb' 9 23 ≠ 0 ∨
    (w.getLsbD 8 = true ∧ w.extractLsb' 0 4 ≠ 5 ∧ w.extractLsb' 0 4 ≠ 6)) : ∃ why : IllegalWord, why.shownBy w := by
  rcases h with hop | hlow | hhigh | hts
  · exact ⟨.reservedOpcode, hop⟩
  · exact ⟨.reservedBits, by simpa [IllegalWord.shownBy, reservedClear] using fun _ => hlow⟩
  · exact ⟨.reservedBits, by simpa [IllegalWord.shownBy, reservedClear] using fun h => absurd h hhigh⟩
  · exact ⟨.explicitTsNotAllowed, hts⟩

/-- Settles O5: the word shows a reason to be illegal, so the decoder refuses it. -/
theorem illegalWordFailsWithCodeOne : Obligations.IllegalWordFailsWithCodeOne := by
  intro s op w hw hp
  obtain ⟨why, hd⟩ := (exists_decodeCmd_illegal_iff w).2 (exists_shownBy hw)
  exact engineStep_illegal hp hd

end Sys2Proof.Machine
end

section
/-! PROOFS, family 40_command_engine. The engine's turn, acceptance, the two ends of a command, the end of a run, and a
host transaction on a busy block. -/

namespace Sys2Proof.Machine

variable {s t : State} {i : Instr}

/-! ### The engine's turn (R140, R146) -/

section
variable (i : Instr) (s : State)

@[simp] theorem commitOf_wallclock : (commitOf i s).wallclock = s.wallclock := by
  cases i <;> simp [commitOf, State.putHotp, State.putTotp]
@[simp] theorem commitOf_resp : (commitOf i s).resp = s.resp := by
  cases i <;> simp [commitOf, State.putHotp, State.putTotp]
@[simp] theorem commitOf_inputs : (commitOf i s).inputs = s.inputs := by
  cases i <;> simp [commitOf, State.putHotp, State.putTotp]

end

/-- With no input listed and `RST` released the step is the engine's turn on the state itself (log entry 2). -/
theorem step_no_input (hin : s.inputs = []) (hr : s.rst = false) : step s = engineStep s := by
  have hn : s.nextInput = s.quietInput := by simp [State.nextInput, hin]
  have hd : s.driven = s := by
    rw [driven_eq (hn ▸ hr), hn]
    ext1 <;> simp [hin, hr, State.quietInput]
  rw [step_engine (hn ▸ hr) (hn ▸ rfl), hd]

/-- Settles O6: with no input the engine finds the state itself, with one it finds `State.driven`. -/
theorem stepRunsTheDecodedCommand : Obligations.StepRunsTheDecodedCommand := by
  refine ⟨fun s op w i hin hr hp hd => ?_, fun s inp rest op w i hin hr he hp hd => ?_⟩
  · rw [step_no_input hin hr, engineStep_running hp hd]
  · have hn : s.nextInput = inp := by simp [State.nextInput, hin]
    rw [step_engine (hn ▸ hr) (hn ▸ he), engineStep_running (s := s.driven) hp hd, driven_eq (hn ▸ hr), hn, hin]
    rfl

/-- The step after a command word is placed is the engine's turn on the state its acceptance leaves. -/
theorem step_placeCommand (s : State) (w : Word) :
    step (s.placeCommand w) = engineStep { s.accept w with rst := false } := by
  cases hin : s.inputs with
  | nil =>
    have hp : s.placeCommand w = { s.accept w with rst := false } := by simp [State.placeCommand, hin]
    rw [hp]
    exact step_no_input hin rfl
  | cons a l =>
    have hn : (s.placeCommand w).nextInput = ({ s.accept w with rst := false } : State).quietInput := by
      simp [State.placeCommand, State.nextInput, hin]
    have hd : (s.placeCommand w).driven = { s.accept w with rst := false } := by
      rw [driven_eq (hn ▸ rfl), hn]
      ext1 <;> simp [State.placeCommand, State.quietInput, hin]
    rw [step_engine (hn ▸ rfl) (hn ▸ rfl), hd]

theorem instr?_eq_some_iff {d : Decoded} : d.instr? = some i ↔ d = .legal i := by
  cases d <;> simp [Decoded.instr?]

/-- Settles O7: the word is accepted and the engine is next. -/
theorem placedWordRunsNext : Obligations.PlacedWordRunsNext := by
  intro s w i hi
  have hw : tableWord 32 w = BitVec.ofNat 32 w := BitVec.eq_of_toNat_eq (by simp [tableWord])
  rw [decodeTableWord, hw, instr?_eq_some_iff] at hi
  rw [State.withFetchWord, hw, step_placeCommand]
  exact engineStep_running rfl hi

/-- The engine's turn always answers a next state, with the phase `Idle`. -/
theorem engineStep_completes (s : State) : ∃ t, engineStep s = .next t ∧ t.phase = .idle := by
  obtain ⟨hp, he⟩ | ⟨op, w, i, -, -, he⟩ | ⟨op, w, why, -, -, he⟩ := engineStep_cases s <;> rw [he]
  · exact ⟨s, rfl, hp⟩
  · obtain ⟨c, -, hx⟩ | ⟨-, hx⟩ := exec_cases i s <;> exact ⟨_, hx, rfl⟩
  · exact ⟨_, rfl, rfl⟩

/-! ### Acceptance (R143) -/

theorem placeAt_cmd : placeAt (0x008 : BitVec 12).toNat = some (.reg .cmd) := placeAt_addr .cmd

/-- A write of `CMD` to a block that is not busy is an acceptance, whatever the word. -/
theorem respond_write_cmd_idle (hb : s.status.busy = false) (w free : Word) :
    s.respond (.write 0x008 4 w) free = (.okay, s.accept w) := by
  rw [respond_write placeAt_cmd, busWrite_reg (.inl hb)]
  rfl

/-- A write of `CMD` to a busy block is ignored. -/
theorem respond_write_cmd_busy (hb : s.status.busy = true) (w free : Word) :
    s.respond (.write 0x008 4 w) free = (.okay, s.setWign) := by
  rw [respond_write placeAt_cmd, busWrite_ignored hb rfl]

/-- Settles O8: `BUSY` tells the phase, and decides between acceptance and `WIGN`. -/
theorem commandWriteIsAccepted : Obligations.CommandWriteIsAccepted := by
  intro s w free hinv
  refine ⟨fun hp => ?_, fun op v hp => ?_⟩
  · have hb : s.status.busy = false := by simpa [hp] using hinv.busyRunning
    exact ⟨s.accept w, respond_write_cmd_idle hb w free, by simp [State.irq], rfl⟩
  · exact respond_write_cmd_busy (hinv.busyRunning.2 (by simp [hp])) w free

/-! ### The two ends of a command (R144, R147, R148) -/

/-- Settles O10: the commit leaves `STATUS` and `CTRL` to the end of the command. -/
theorem passingCommandCompletes : Obligations.PassingCommandCompletes := fun s i h =>
  ⟨_, exec_of_pass i s h, by simp [Status.afterSuccess], rfl, by simp [State.irq]⟩

/-- Settles O9: an illegal word and a failing check end with the error, a passing command keeps `ERR` and `ERRCODE`. -/
theorem checksRunInOrder : Obligations.ChecksRunInOrder := by
  refine ⟨fun s op w why hp hd => ?_, fun s i c h => ?_, fun s i h => ?_⟩
  · exact ⟨_, engineStep_illegal hp hd, rfl, by simp [State.irq]⟩
  · exact ⟨_, exec_of_error i s c h, rfl, by simp [State.irq, Status.afterError]⟩
  · exact ⟨_, exec_of_pass i s h, by simp, by simp⟩

/-! ### Progress and the end of a run (R140, R151, R276) -/

/-- Settles O59: reset, a quiet step and the engine's turn answer a next state, the host's step faults only on a
malformed transaction. -/
theorem noStepIsStuck : Obligations.NoStepIsStuck := by
  intro s
  obtain ⟨-, hs⟩ | ⟨-, -, hs⟩ | ⟨-, -, hs⟩ | ⟨x, hr, he, hs⟩ := step_cases s
  · exact .inl ⟨_, hs⟩
  · exact .inl ⟨_, hs⟩
  · obtain ⟨t, ht, -⟩ := engineStep_completes (s.dropInput.drive s.nextInput)
    exact .inl ⟨t, hs.trans ht⟩
  · obtain ⟨hm, hx⟩ | ⟨off, p, -, -, hx⟩ | ⟨off, p, d, -, -, hx⟩ :=
      hostStep_cases x s.nextInput.freeData (s.dropInput.drive s.nextInput)
    · exact .inr ⟨x, hr, he, hm, hs.trans hx⟩
    · exact .inl ⟨_, hs.trans hx⟩
    · exact .inl ⟨_, hs.trans hx⟩

/-- A step under an input free of bus errors answers a next state. -/
theorem step_of_safe (h : s.nextInput.safe = true) : ∃ t, step s = .next t := by
  obtain ht | ⟨x, -, he, hm, -⟩ := noStepIsStuck s
  · exact ht
  · simp [Input.safe, he, HostTxn.wellFormed, (busTarget_eq_none _ _).2 hm] at h

theorem busWrite_inputs (s : State) (p : Place) (off : Nat) (d : Word) : (s.busWrite p off d).inputs = s.inputs := by
  obtain ⟨-, -, hw⟩ | ⟨-, ⟨r, -, hw⟩ | ⟨b, -, hw⟩⟩ := s.busWrite_cases p off d <;> rw [hw]
  · rfl
  · cases r <;> rfl
  · cases b <;> rfl

theorem engineStep_inputs (h : engineStep s = .next t) : t.inputs = s.inputs := by
  obtain ⟨-, rfl⟩ | ⟨-, ⟨e, rfl⟩ | ⟨i, -, rfl⟩⟩ := engineStep_next h
  · rfl
  · rfl
  · simp

/-- Every step takes one input off the list, whichever agent moves. -/
theorem step_inputs (h : step s = .next t) : t.inputs = s.inputs.tail := by
  cases hr : s.nextInput.rst with
  | true => rw [step_next_reset hr h]; rfl
  | false =>
    obtain ⟨-, rfl⟩ | ⟨-, he⟩ | ⟨off, r, -, rfl⟩ | ⟨off, p, d, r, -, -, rfl⟩ := step_next hr h
    · rfl
    · exact engineStep_inputs he
    · rfl
    · exact busWrite_inputs s.driven p _ d

/-- A step with no input listed ends the run: it is a reset or the engine's turn (log entry 2). -/
theorem step_no_input_ends (hin : s.inputs = []) : ∃ t, step s = .next t ∧ t.ended := by
  obtain ⟨t, ht, hp⟩ : ∃ t, step s = .next t ∧ t.phase = .idle := by
    cases hr : s.rst with
    | true =>
      have hn : s.nextInput.rst = true := by simpa [State.nextInput, hin, State.quietInput] using hr
      exact ⟨s.driven.applyReset s.nextInput, by simp [step, react, hn, State.driven], rfl⟩
    | false => exact step_no_input hin hr ▸ engineStep_completes s
  exact ⟨t, ht, by rw [step_inputs ht, hin]; rfl, hp⟩

/-- Settles O60, by induction on the listed inputs: each step takes one, and the step after the last ends the run. -/
theorem everyRunReachesItsEnd : Obligations.EveryRunReachesItsEnd := by
  intro s hsafe
  induction hin : s.inputs generalizing s with
  | nil =>
    obtain ⟨t, ht, hend⟩ := step_no_input_ends hin
    exact ⟨t, core_run_succ 0 s t ht, hend⟩
  | cons inp rest ih =>
    have hn : s.nextInput = inp := by simp [State.nextInput, hin]
    obtain ⟨u, hu⟩ := step_of_safe (s := s) (hn ▸ hsafe inp (by simp [hin]))
    have hrest : u.inputs = rest := by rw [step_inputs hu, hin]; rfl
    obtain ⟨t, ht, hend⟩ := ih u (fun a ha => hsafe a (by simp [hin, hrest ▸ ha])) hrest
    exact ⟨t, (core_run_succ _ s u hu).trans ht, hend⟩

/-! ### The host and a busy block (R142, R307) -/

/-- A host write to a busy block changes `CTRL` and the write-one-to-clear bits of `STATUS` at most. -/
theorem busWrite_of_busy (hb : s.status.busy = true) (p : Place) (off : Nat) (d : Word) :
    ∃ ie status, s.busWrite p off d = { s with ie := ie, status := status } ∧ status.busy = true := by
  obtain ⟨-, -, hw⟩ | ⟨hn, ⟨r, rfl, hw⟩ | ⟨b, rfl, hw⟩⟩ := s.busWrite_cases p off d <;> rw [hw]
  · exact ⟨s.ie, _, rfl, hb⟩
  · have hp : (Place.reg r).busyProtected = false := by simpa [hb] using hn
    cases r with
    | ctrl => exact ⟨_, s.status, rfl, hb⟩
    | status => exact ⟨s.ie, _, rfl, hb⟩
    | id | secRemain | offset | binary | code | decValid | decDropped | decTail => exact ⟨s.ie, s.status, rfl, hb⟩
    | cmd | inLen | keyLen | digits | timeStep | timestampLo | timestampHi | counterLo | counterHi => cases hp
  · have hp : (Place.buf b).busyProtected = false := by simpa [hb] using hn
    cases b with
    | digest | codeChars => exact ⟨s.ie, s.status, rfl, hb⟩
    | inBuf | keyBuf => cases hp

/-- The next state of a host transaction on a busy block differs in `CTRL`, `STATUS` and the port's output at most. -/
theorem hostStep_of_busy {x : HostTxn} {free : Word} (hb : s.status.busy = true) (h : hostStep x free s = .next t) :
    ∃ ie status resp, t = { s with ie := ie, status := status, resp := resp } ∧ status.busy = true := by
  obtain ⟨-, hx⟩ | ⟨off, p, -, -, hx⟩ | ⟨off, p, d, -, -, hx⟩ := hostStep_cases x free s <;> rw [hx] at h <;> cases h
  · exact ⟨s.ie, s.status, _, rfl, hb⟩
  · obtain ⟨ie, status, hw, hb'⟩ := busWrite_of_busy hb p off.toNat d
    exact ⟨ie, status, _, by rw [hw], hb'⟩

/-- No command reads `CTRL` or `STATUS` (R141). -/
theorem ne_of_mem_readSet {r : Reg} (h : Place.reg r ∈ Instr.readSet i) : r ≠ .ctrl ∧ r ≠ .status := by
  constructor <;> rintro rfl <;> revert h
  all_goals cases i with
    | tcount x | totp x => cases x <;> decide
    | _ => decide

/-- Settles O13: what such a transaction may change, no command reads. -/
theorem operandsAreStableWhileRunning : Obligations.OperandsAreStableWhileRunning := by
  intro s t i x free hb hi h
  obtain ⟨ie, status, resp, rfl, hb'⟩ := hostStep_of_busy hb h
  refine ⟨hb', hi, ⟨fun r hr => ?_, fun _ _ _ _ => rfl, fun _ => rfl⟩, rfl⟩
  obtain ⟨hctrl, hstatus⟩ := ne_of_mem_readSet hr
  cases r with
  | ctrl => exact absurd rfl hctrl
  | status => exact absurd rfl hstatus
  | _ => rfl

end Sys2Proof.Machine
end

section
/-! PROOFS, family 40_command_engine. The frame of every command and its dependence on the read set: each stage writes
only its own places and leaves there what its operands say, and the commands are made of the stages. -/

namespace Sys2Proof.Machine

variable {s t : State} {i : Instr}

/-! ### The frame of each stage (R141) -/

/-- From `s` to `t` only the places of `ws` may have changed, as the host reads them. -/
structure WritesOnly (ws : List Place) (s t : State) : Prop where
  reg : ∀ r, Place.reg r ∉ ws → t.readReg r = s.readReg r
  mem : ∀ a, (∀ b, Place.buf b ∈ ws → b.holds a = false) → Memory.read t.mem a = Memory.read s.mem a

namespace WritesOnly

variable {u : State} {ws ws' : List Place}

theorem mono (h : WritesOnly ws s t) (hs : ws ⊆ ws') : WritesOnly ws' s t :=
  ⟨fun r hr => h.reg r fun hm => hr (hs hm), fun a ha => h.mem a fun b hb => ha b (hs hb)⟩

/-- One stage after another writes the places of both. -/
theorem append (h : WritesOnly ws s t) (h' : WritesOnly ws' t u) : WritesOnly (ws ++ ws') s u where
  reg r hr := by
    rw [List.mem_append, not_or] at hr
    rw [h'.reg r hr.2, h.reg r hr.1]
  mem a ha := by
    rw [h'.mem a fun b hb => ha b (List.mem_append_right _ hb), h.mem a fun b hb => ha b (List.mem_append_left _ hb)]

theorem putDecoding (s : State) (d : Decoding) : WritesOnly (Instr.writeSet .decode) s (s.putDecoding d) where
  reg r hr := by
    cases r with
    | keyLen | decValid | decDropped | decTail => exact absurd (by decide) hr
    | _ => rfl
  mem a ha := by
    rw [State.putDecoding_mem]
    exact State.read_fillBuf_outside _ _ _ _ (ha .keyBuf (by decide))

theorem putWindow (s : State) (x : Bool) : WritesOnly (Instr.writeSet (.tcount x)) s (s.putWindow x) where
  reg r hr := by
    cases r with
    | counterLo | counterHi | secRemain => exact absurd (by simp [Instr.writeSet]) hr
    | timestampLo | timestampHi =>
      cases x with
      | false => exact absurd (by decide) hr
      | true => rfl
    | _ => cases x <;> rfl
  mem a _ := by rw [State.putWindow_mem]

theorem putDigest (s : State) (d : List Byte) : WritesOnly (Instr.writeSet .hmac) s (s.putDigest d) where
  reg r _ := by cases r <;> rfl
  mem a ha := State.read_fillBuf_outside _ _ _ _ (ha .digest (by decide))

theorem putReduction (s : State) (r : Reduction) : WritesOnly (Instr.writeSet .reduce) s (s.putReduction r) where
  reg r hr := by
    cases r with
    | offset | binary | code => exact absurd (by decide) hr
    | _ => rfl
  mem a ha := by
    rw [State.putReduction_mem]
    exact State.read_fillBuf_outside _ _ _ _ (ha .codeChars (by decide))

theorem clearData (s : State) : WritesOnly (Instr.writeSet .clear) s s.clearData where
  reg r hr := by
    cases r with
    | inLen | keyLen | timestampLo | timestampHi | counterLo | counterHi | secRemain | offset | binary | code | decValid
    | decDropped | decTail => exact absurd (by decide) hr
    | _ => rfl
  mem a ha := by
    have hout : ∀ b ∈ bufMap, b.holds a = false := fun b _ => ha b (by cases b <;> decide)
    rw [State.clearData_mem, Memory.read_clearBufs, if_neg (by simpa using hout)]

/-- Every command commits to its write set only, stage by stage. -/
theorem commitOf (i : Instr) (s : State) : WritesOnly (Instr.writeSet i) s (commitOf i s) := by
  cases i with
  | nop => exact ⟨fun _ _ => rfl, fun _ _ => rfl⟩
  | decode => exact putDecoding s _
  | hmac => exact putDigest s _
  | reduce => exact putReduction s _
  | hotp => exact ((putDigest s _).append (putReduction _ _)).mono (by decide)
  | tcount x => exact putWindow s x
  | totp x =>
    exact ((((putDecoding s _).append (putWindow _ x)).append (putDigest _ _)).append (putReduction _ _)).mono
      (by cases x <;> decide)
  | clear => exact clearData s

end WritesOnly

/-- The end of a command changes no register but `STATUS`. -/
theorem finish_readReg {r : Reg} (hr : r ≠ .status) (s : State) : s.finish.readReg r = s.readReg r := by
  cases r <;> trivial

theorem raiseCmdError_readReg {r : Reg} (hr : r ≠ .status) (s : State) (e : CmdError) :
    (s.raiseCmdError e).readReg r = s.readReg r := by
  cases r <;> trivial

/-- Settles O11: a failing command writes nothing, a passing one what its stages write. -/
theorem commandsWriteOnlyTheirWriteSet : Obligations.CommandsWriteOnlyTheirWriteSet := by
  intro i s t h
  obtain ⟨e, rfl⟩ | ⟨-, rfl⟩ := exec_next h
  · exact ⟨fun r _ hr => raiseCmdError_readReg hr s e, fun _ _ => rfl, rfl, rfl, rfl, rfl, rfl, rfl⟩
  · have hw := WritesOnly.commitOf i s
    refine ⟨fun r hr hs => (finish_readReg hs _).trans (hw.reg r hr), hw.mem, ?_, ?_, ?_, ?_, ?_, ?_⟩
    all_goals simp

/-! ### What each stage leaves depends on its operands (R150) -/

/-- Two states hold the same values in the places of `ws`, as the host reads them. -/
structure AgreeOn (ws : List Place) (s t : State) : Prop where
  reg : ∀ r, Place.reg r ∈ ws → s.readReg r = t.readReg r
  buf : ∀ b, Place.buf b ∈ ws → ∀ k < b.size, s.byteOf b k = t.byteOf b k

namespace AgreeOn

variable {s' t' : State} {ws ws' : List Place}

theorem mono (h : AgreeOn ws' s t) (hs : ws ⊆ ws') : AgreeOn ws s t :=
  ⟨fun r hr => h.reg r (hs hr), fun b hb => h.buf b (hs hb)⟩

/-- A stage keeps agreement on the places it leaves, and adds agreement on those it writes. -/
theorem stage (h : AgreeOn ws s t) (hs : WritesOnly ws' s s') (ht : WritesOnly ws' t t') (h' : AgreeOn ws' s' t') :
    AgreeOn (ws ++ ws') s' t' where
  reg r hr := by
    by_cases hw : Place.reg r ∈ ws'
    · exact h'.reg r hw
    · rw [hs.reg r hw, ht.reg r hw, h.reg r ((List.mem_append.1 hr).resolve_right hw)]
  buf b hb k hk := by
    by_cases hw : Place.buf b ∈ ws'
    · exact h'.buf b hw k hk
    · have hold : b.holds (b.base + k) = true := (Buf.holds_iff b _).2 ⟨by omega, by omega⟩
      have hout : ∀ c, Place.buf c ∈ ws' → c.holds (b.base + k) = false := fun c hc => by
        rw [← Bool.not_eq_true, Buf.holds_iff_eq hold c]
        rintro rfl
        exact hw hc
      rw [State.byteOf, hs.mem _ hout, State.byteOf, ht.mem _ hout]
      exact h.buf b ((List.mem_append.1 hb).resolve_right hw) k hk

theorem putDecoding (s t : State) (d : Decoding) :
    AgreeOn (Instr.writeSet .decode) (s.putDecoding d) (t.putDecoding d) where
  reg r hr := by
    cases r with
    | keyLen | decValid | decDropped | decTail => rfl
    | _ => exact absurd hr (by decide)
  buf b hb k hk := by
    obtain rfl : b = .keyBuf := by simpa [Instr.writeSet] using hb
    simp only [State.byteOf_congr_mem _ _ (State.putDecoding_mem _ d), State.byteOf_fillBuf _ _ _ k hk]

theorem putWindow {x : Bool} (ho : s.timeOperand x = t.timeOperand x) (hs : s.timeStep = t.timeStep) :
    AgreeOn (Instr.writeSet (.tcount x)) (s.putWindow x) (t.putWindow x) where
  reg r hr := by
    cases r with
    | counterLo | counterHi | secRemain => simp [State.readReg, ho, hs]
    | timestampLo | timestampHi =>
      cases x with
      | false => exact congrArg (BitVec.extractLsb' _ 32) ho
      | true => exact absurd hr (by decide)
    | _ => cases x <;> exact absurd hr (by decide)
  buf b hb := by cases x <;> simp [Instr.writeSet] at hb

theorem putDigest (s t : State) (d : List Byte) : AgreeOn (Instr.writeSet .hmac) (s.putDigest d) (t.putDigest d) where
  reg r hr := by simp [Instr.writeSet] at hr
  buf b hb k hk := by
    obtain rfl : b = .digest := by simpa [Instr.writeSet] using hb
    simp only [State.putDigest, State.byteOf_fillBuf _ _ _ k hk]

theorem putReduction (s t : State) (r : Reduction) :
    AgreeOn (Instr.writeSet .reduce) (s.putReduction r) (t.putReduction r) where
  reg r hr := by
    cases r with
    | offset | binary | code => rfl
    | _ => exact absurd hr (by decide)
  buf b hb k hk := by
    obtain rfl : b = .codeChars := by simpa [Instr.writeSet] using hb
    simp only [State.byteOf_congr_mem _ _ (State.putReduction_mem _ r), State.byteOf_fillBuf _ _ _ k hk]

theorem clearData (s t : State) : AgreeOn (Instr.writeSet .clear) s.clearData t.clearData where
  reg r hr := by
    cases r with
    | inLen | keyLen | timestampLo | timestampHi | counterLo | counterHi | secRemain | offset | binary | code | decValid
    | decDropped | decTail => rfl
    | _ => exact absurd hr (by decide)
  buf b _ k hk := by
    have hold : bufMap.any (fun c => c.holds (b.base + k)) = true :=
      List.any_eq_true.2 ⟨b, by cases b <;> decide, (Buf.holds_iff b _).2 ⟨by omega, by omega⟩⟩
    simp only [State.byteOf, State.clearData_mem, Memory.read_clearBufs, hold, if_true]

/-! One stage after another. -/

theorem thenWindow {x : Bool} (h : AgreeOn ws s t) (ho : s.timeOperand x = t.timeOperand x)
    (hs : s.timeStep = t.timeStep) :
    AgreeOn (ws ++ Instr.writeSet (.tcount x)) (s.putWindow x) (t.putWindow x) :=
  h.stage (.putWindow s x) (.putWindow t x) (.putWindow ho hs)

theorem thenDigest (h : AgreeOn ws s t) (d : List Byte) :
    AgreeOn (ws ++ Instr.writeSet .hmac) (s.putDigest d) (t.putDigest d) :=
  h.stage (.putDigest s d) (.putDigest t d) (.putDigest s t d)

theorem thenReduction (h : AgreeOn ws s t) (r : Reduction) :
    AgreeOn (ws ++ Instr.writeSet .reduce) (s.putReduction r) (t.putReduction r) :=
  h.stage (.putReduction s r) (.putReduction t r) (.putReduction s t r)

end AgreeOn

/-! ### Operands that agree (R115, R141) -/

/-- A field is told from the word it reads as (R32 (e)). -/
theorem setWidth_injective {m n : Nat} (h : n ≤ m) {x y : BitVec n} (hxy : x.setWidth m = y.setWidth m) : x = y := by
  simpa [BitVec.setWidth_setWidth_of_le _ h] using congrArg (BitVec.setWidth n) hxy

section
variable (h : agreeOnReads i s t)
include h

theorem inLen_eq_of_agreeOnReads (hr : Place.reg .inLen ∈ Instr.readSet i) : s.inLen = t.inLen :=
  setWidth_injective (by decide) (h.1 .inLen hr)

theorem keyLen_eq_of_agreeOnReads (hr : Place.reg .keyLen ∈ Instr.readSet i) : s.keyLen = t.keyLen :=
  setWidth_injective (by decide) (h.1 .keyLen hr)

theorem digits_eq_of_agreeOnReads (hr : Place.reg .digits ∈ Instr.readSet i) : s.digits = t.digits :=
  setWidth_injective (by decide) (h.1 .digits hr)

theorem timeStep_eq_of_agreeOnReads (hr : Place.reg .timeStep ∈ Instr.readSet i) : s.timeStep = t.timeStep :=
  h.1 .timeStep hr

theorem counter_eq_of_agreeOnReads (hlo : Place.reg .counterLo ∈ Instr.readSet i)
    (hhi : Place.reg .counterHi ∈ Instr.readSet i) : s.counter = t.counter :=
  congrArg₂ _ (h.1 .counterHi hhi) (h.1 .counterLo hlo)

theorem secret_eq_of_agreeOnReads (hr : Place.reg .inLen ∈ Instr.readSet i)
    (hb : Place.buf .inBuf ∈ Instr.readSet i) : s.secret = t.secret := by
  rw [State.secret, State.secret, ← inLen_eq_of_agreeOnReads h hr]
  obtain ⟨-, hbuf, -⟩ := h
  exact Memory.readBytes_congr _ _ _ _ (hbuf .inBuf hb)

theorem key_eq_of_agreeOnReads (hr : Place.reg .keyLen ∈ Instr.readSet i)
    (hb : Place.buf .keyBuf ∈ Instr.readSet i) : s.key = t.key := by
  rw [State.key, State.key, ← keyLen_eq_of_agreeOnReads h hr]
  obtain ⟨-, hbuf, -⟩ := h
  exact Memory.readBytes_congr _ _ _ _ (hbuf .keyBuf hb)

theorem digest_eq_of_agreeOnReads (hb : Place.buf .digest ∈ Instr.readSet i) : s.digest = t.digest := by
  obtain ⟨-, hbuf, -⟩ := h
  exact Memory.readBytes_congr _ _ _ _ (hbuf .digest hb)

end

/-- TCOUNT and TOTP read the timestamp they are told to take (R112). -/
theorem timeOperand_eq_of_agreeOnReads {x : Bool} (hi : i = .tcount x ∨ i = .totp x) (h : agreeOnReads i s t) :
    s.timeOperand x = t.timeOperand x := by
  obtain ⟨hreg, -, hsample⟩ := h
  cases x with
  | false => exact hsample hi
  | true =>
    exact congrArg₂ (· ++ ·) (hreg .timestampHi (by rcases hi with rfl | rfl <;> decide))
      (hreg .timestampLo (by rcases hi with rfl | rfl <;> decide))

/-! ### Determinism of the commands (R150) -/

/-- The checks of a command look at its read set only (R144). -/
theorem errorOf_congr (h : agreeOnReads i s t) : errorOf i s = errorOf i t := by
  cases i with
  | nop => rw [errorOf_nop, errorOf_nop]
  | clear => rw [errorOf_clear, errorOf_clear]
  | decode => simp [errorOf, inLen_eq_of_agreeOnReads h (by decide)]
  | hmac => simp [errorOf, keyLen_eq_of_agreeOnReads h (by decide)]
  | reduce => simp [errorOf, digits_eq_of_agreeOnReads h (by decide)]
  | hotp => simp [errorOf, keyLen_eq_of_agreeOnReads h (by decide), digits_eq_of_agreeOnReads h (by decide)]
  | tcount x => simp [errorOf, timeStep_eq_of_agreeOnReads h (by simp [Instr.readSet])]
  | totp x =>
    simp [errorOf, inLen_eq_of_agreeOnReads h (by simp [Instr.readSet]),
      digits_eq_of_agreeOnReads h (by simp [Instr.readSet]), timeStep_eq_of_agreeOnReads h (by simp [Instr.readSet])]

/-- What a command commits depends on its read set only. -/
theorem agreeOn_commitOf (h : agreeOnReads i s t) : AgreeOn (Instr.writeSet i) (commitOf i s) (commitOf i t) := by
  cases i with
  | nop => exact ⟨fun r hr => by simp [Instr.writeSet] at hr, fun b hb => by simp [Instr.writeSet] at hb⟩
  | decode =>
    simp only [commitOf, secret_eq_of_agreeOnReads h (by decide) (by decide)]
    exact .putDecoding s t _
  | hmac =>
    simp only [commitOf, key_eq_of_agreeOnReads h (by decide) (by decide),
      counter_eq_of_agreeOnReads h (by decide) (by decide)]
    exact .putDigest s t _
  | reduce =>
    simp only [commitOf, digest_eq_of_agreeOnReads h (by decide), digits_eq_of_agreeOnReads h (by decide)]
    exact .putReduction s t _
  | hotp =>
    simp only [commitOf, State.putHotp, key_eq_of_agreeOnReads h (by decide) (by decide),
      counter_eq_of_agreeOnReads h (by decide) (by decide), digits_eq_of_agreeOnReads h (by decide)]
    exact ((AgreeOn.putDigest s t _).thenReduction _).mono (by decide)
  | tcount x =>
    exact .putWindow (timeOperand_eq_of_agreeOnReads (.inl rfl) h)
      (timeStep_eq_of_agreeOnReads h (by simp [Instr.readSet]))
  | totp x =>
    have hts := timeOperand_eq_of_agreeOnReads (.inr rfl) h
    have hstep := timeStep_eq_of_agreeOnReads h (by simp [Instr.readSet])
    simp only [commitOf, State.putTotp, secret_eq_of_agreeOnReads h (by simp [Instr.readSet]) (by simp [Instr.readSet]),
      digits_eq_of_agreeOnReads h (by simp [Instr.readSet]), hts, hstep]
    exact ((((AgreeOn.putDecoding s t _).thenWindow hts hstep).thenDigest _).thenReduction _).mono
      (by cases x <;> decide)
  | clear => exact .clearData s t

/-- No write set names `STATUS` (R141). -/
theorem status_not_mem_writeSet (i : Instr) : Place.reg .status ∉ Instr.writeSet i := by
  cases i with
  | tcount x | totp x => cases x <;> decide
  | _ => decide

/-- Settles O12: agreeing operands pass the same checks and commit the same results. -/
theorem resultsDependOnlyOnTheReadSet : Obligations.ResultsDependOnlyOnTheReadSet := by
  intro i s t s' t' h he hs ht
  have he' : errorOf i t = none := errorOf_congr h ▸ he
  rw [exec_of_pass i s he] at hs
  rw [exec_of_pass i t he'] at ht
  cases hs
  cases ht
  have hc := agreeOn_commitOf h
  refine ⟨he', fun r hr => ?_, hc.buf⟩
  have hne : r ≠ .status := fun hr' => status_not_mem_writeSet i (hr' ▸ hr)
  rw [finish_readReg hne, finish_readReg hne, hc.reg r hr]

end Sys2Proof.Machine
end

section
/-! PROOFS, family 41_base32_decode. The alphabet and its indices; then the bit stream they form, read bit by bit, byte by
byte. -/

namespace Sys2Proof.Machine

/-! ### The alphabet (R160, R161) -/

theorem b32val_b32char : ∀ x < 32, b32val (b32char x) = some x := by decide

theorem b32val_lowerCase : ∀ x < 26, b32val (BitVec.ofNat 8 (0x61 + x)) = some x := by decide

theorem upperAscii_of_lowerCase {c : Byte} (h : 0x61 ≤ c ∧ c ≤ 0x7A) : upperAscii c = c - 0x20 := if_pos h

theorem upperAscii_of_not_lowerCase {c : Byte} (h : ¬ (0x61 ≤ c ∧ c ≤ 0x7A)) : upperAscii c = c := if_neg h

/-- The two branches of R161 that answer an index: the upper-cased character is in the alphabet. -/
theorem upperAscii_of_b32val {c : Byte} {x : Nat} (h : b32val c = some x) : x < 32 ∧ upperAscii c = b32char x := by
  simp only [b32val] at h
  generalize upperAscii c = u at h ⊢
  split_ifs at h with hletter hdigit <;> cases h
  · have hx : (u - 0x41).toNat < 26 := by bv_omega
    refine ⟨by omega, ?_⟩
    rw [b32char, if_pos hx]
    bv_omega
  · have hx : (u - 0x32).toNat < 6 := by bv_omega
    refine ⟨by omega, ?_⟩
    rw [b32char, if_neg (by omega)]
    bv_omega

/-- A lower-case letter upper-cases to a letter, so its index is one of the first 26. -/
theorem eq_of_b32val {c : Byte} {x : Nat} (h : b32val c = some x) :
    x < 32 ∧ (c = b32char x ∨ (x < 26 ∧ c = BitVec.ofNat 8 (0x61 + x))) := by
  obtain ⟨hx, hu⟩ := upperAscii_of_b32val h
  refine ⟨hx, ?_⟩
  by_cases hlower : 0x61 ≤ c ∧ c ≤ 0x7A
  · rw [upperAscii_of_lowerCase hlower, b32char] at hu
    split at hu
    · exact .inr ⟨‹_›, by bv_omega⟩
    · bv_omega
  · exact .inl (upperAscii_of_not_lowerCase hlower ▸ hu)

theorem b32val_eq_some_iff (c : Byte) (x : Nat) :
    b32val c = some x ↔ x < 32 ∧ (c = b32char x ∨ (x < 26 ∧ c = BitVec.ofNat 8 (0x61 + x))) := by
  refine ⟨eq_of_b32val, ?_⟩
  rintro ⟨hx, rfl | ⟨hx', rfl⟩⟩
  · exact b32val_b32char x hx
  · exact b32val_lowerCase x hx'

theorem b32val_lt {c : Byte} {x : Nat} (h : b32val c = some x) : x < 32 :=
  (eq_of_b32val h).1

/-- Every byte with an index is an ASCII byte (R161, R169). -/
theorem toNat_lt_of_b32val {c : Byte} {x : Nat} (h : b32val c = some x) : c.toNat < 0x80 := by
  obtain ⟨hx, rfl | ⟨hx', rfl⟩⟩ := eq_of_b32val h
  · unfold b32char
    split <;> simp <;> omega
  · simp
    omega

/-- Settles O25: the index table is the list of the characters with an index, all of them ASCII. -/
theorem alphabetIndexTable : Obligations.AlphabetIndexTable := by
  refine ⟨b32val_eq_some_iff, by decide +kernel, fun c hc => ?_⟩
  cases h : b32val c with
  | none => rfl
  | some x =>
    have := toNat_lt_of_b32val h
    omega

/-! ### Dropped characters and case (R165, R168) -/

theorem indices_append (p q : List Byte) : indices (p ++ q) = indices p ++ indices q :=
  List.filterMap_append

theorem indices_cons_dropped {c : Byte} (h : b32val c = none) (q : List Byte) : indices (c :: q) = indices q :=
  List.filterMap_cons_none h

theorem indices_insert_dropped {c : Byte} (h : b32val c = none) (p q : List Byte) :
    indices (p ++ c :: q) = indices (p ++ q) := by
  rw [indices_append, indices_append, indices_cons_dropped h]

theorem upperAscii_upperAscii (c : Byte) : upperAscii (upperAscii c) = upperAscii c := by
  by_cases h : 0x61 ≤ c ∧ c ≤ 0x7A
  · rw [upperAscii_of_lowerCase h]
    exact upperAscii_of_not_lowerCase (by bv_omega)
  · rw [upperAscii_of_not_lowerCase h, upperAscii_of_not_lowerCase h]

theorem b32val_upperAscii (c : Byte) : b32val (upperAscii c) = b32val c := by
  simp only [b32val, upperAscii_upperAscii]

theorem indices_map_upperAscii (s : List Byte) : indices (s.map upperAscii) = indices s := by
  rw [indices, List.filterMap_map]
  exact List.filterMap_congr fun c _ => b32val_upperAscii c

/-- Settles O27: decoding looks at the indices and at the number of characters, of which one more is dropped. -/
theorem droppedCharactersDoNotMatter : Obligations.DroppedCharactersDoNotMatter := by
  refine ⟨fun p q c hc => ?_, fun s => ?_⟩
  · have hle := indices_length_le (p ++ q)
    have hlen : (p ++ c :: q).length = (p ++ q).length + 1 := by simp [Nat.add_assoc]
    simp only [b32decode, indices_insert_dropped hc, hlen, Nat.sub_add_comm hle]
  · simp only [b32decode, indices_map_upperAscii, List.length_map]

/-! ### The bit stream (R162) -/

theorem streamOf_concat (v : List Nat) (x : Nat) : streamOf (v ++ [x]) = streamOf v * 32 + x := by
  simp [streamOf]

theorem lt_of_mem_indices {s : List Byte} {x : Nat} (h : x ∈ indices s) : x < 32 := by
  obtain ⟨c, -, hc⟩ := List.mem_filterMap.1 h
  exact b32val_lt hc

/-- Bit `p` of the stream, first bit 0, is bit `p mod 5` of the index number `p div 5`, each index most significant bit
first. -/
theorem streamOf_testBit {v : List Nat} (hv : ∀ x ∈ v, x < 32) {p : Nat} (hp : p < 5 * v.length) :
    (streamOf v).testBit (5 * v.length - 1 - p) = (v.getD (p / 5) 0).testBit (4 - p % 5) := by
  induction v using List.reverseRecOn with
  | nil => simp at hp
  | append_singleton v x ih =>
    have hx : x < 2 ^ 5 := hv x (by simp)
    simp only [List.length_append, List.length_singleton] at hp ⊢
    rw [streamOf_concat, mul_comm, show 32 = 2 ^ 5 by rfl, Nat.testBit_two_pow_mul_add _ hx]
    by_cases hlast : 5 * v.length ≤ p
    · have hd : p / 5 = v.length := by omega
      rw [if_pos (by omega), hd, List.getD_append_right _ _ _ _ le_rfl, Nat.sub_self, List.getD_cons_zero]
      congr 1
      omega
    · rw [if_neg (by omega), List.getD_append _ _ _ _ (by omega),
        ← ih (fun y hy => hv y (List.mem_append_left _ hy)) (by omega)]
      congr 1
      omega

/-- Byte `j` of what decoding answers, by the second formula of R162. -/
theorem b32decode_out_getD {s : List Byte} {j : Nat} (h : j < 5 * (indices s).length / 8) :
    (b32decode s).out.getD j 0 = BitVec.ofNat 8 (streamOf (indices s) / 2 ^ (5 * (indices s).length - 8 * j - 8)) := by
  rw [List.getD_eq_getElem _ _ (by simpa using h)]
  simp only [b32decode, beBytes_getElem]
  rw [Nat.div_div_eq_div_mul, show 256 = 2 ^ 8 by rfl, ← pow_mul, ← pow_add]
  congr 3
  omega

/-- Settles O26: a byte is eight bits of the stream, and a bit of the stream is a bit of an index. -/
theorem bitSlicingReadsTheStream : Obligations.BitSlicingReadsTheStream := by
  intro s j k hk hj
  rw [b32decode_out_getD hj, BitVec.getMsbD, BitVec.getLsbD_ofNat, Nat.testBit_div_two_pow,
    ← streamOf_testBit (fun x hx => lt_of_mem_indices hx) (by omega)]
  simp only [hk, decide_true, Bool.true_and, show 8 - 1 - k < 8 by omega]
  congr 1
  omega

end Sys2Proof.Machine
end

section
/-! PROOFS, family 41_base32_decode. DECODE, which writes what the stream holds; then the round trip: the stream of an
encoding is the encoded bytes and the fill. -/

namespace Sys2Proof.Machine

variable {s : State}

/-! ### DECODE (R163, R164) -/

theorem State.secretBytes_eq_secret (s : State) : s.secretBytes = s.secret := rfl

theorem exec_decode (h : s.inLen.toNat ≤ 256) :
    exec .decode s = .next (s.putDecoding (b32decode s.secret)).finish :=
  exec_of_pass _ _ ((errorOf_decode s).2 h)

theorem errorOf_decode_too_long (h : 256 < s.inLen.toNat) : errorOf .decode s = some 2 := by
  simp [errorOf, h]

/-- The key buffer after a decoding (R163): byte `j` of what it decoded, 0x00 past its end. -/
theorem State.byteOf_putDecoding_keyBuf (s : State) (d : Decoding) {j : Nat} (h : j < 160) :
    (s.putDecoding d).byteOf .keyBuf j = d.out.getD j 0 := by
  rw [State.byteOf_congr_mem _ _ (State.putDecoding_mem s d), State.byteOf_fillBuf _ _ _ _ h]

/-- The counts of a secret that fits `IN_BUF` fit the registers that take them. -/
theorem holdsDecoding_putDecoding (s : State) {secret : List Byte} (h : secret.length ≤ 256) :
    holdsDecoding secret (s.putDecoding (b32decode secret)) := by
  have hle := indices_length_le secret
  refine ⟨fun j hj => ?_, ?_, ?_, ?_, ?_⟩
  · rw [State.byteOf_putDecoding_keyBuf s _ hj]
    split_ifs with hj'
    · exact b32decode_out_getD hj'
    · exact List.getD_eq_default _ _ (by simpa using hj')
  all_goals simp <;> omega

/-- Settles O15: a secret that fits is decoded into the key buffer and the four registers, a longer one is refused. -/
theorem decodeWritesTheDecodedKey : Obligations.DecodeWritesTheDecodedKey := by
  refine ⟨decodeCmd_encode .decode, fun s => ⟨fun h => ⟨_, exec_decode h, ?_, ?_, rfl⟩, fun h => ?_⟩⟩
  · rw [State.secretBytes_eq_secret]
    exact holdsDecoding_putDecoding s (by simpa using h)
  · exact fun a ha => (WritesOnly.putDecoding s _).mem a fun b hb => ha b (by simpa [Instr.writeSet] using hb)
  · exact exec_of_error _ _ _ (errorOf_decode_too_long h)

theorem errorOf_hotp_ne_keyLen (h : s.keyLen.toNat ≤ 160) : errorOf .hotp s ≠ some 3 := by
  have hk : ¬ 160 < s.keyLen.toNat := by omega
  simp only [errorOf, Bool.false_eq_true, false_and, if_false, hk, and_false]
  split_ifs <;> decide

/-- Settles O28: 256 characters give 160 bytes, and every character is decoded or dropped. -/
theorem decodedKeyAlwaysFits : Obligations.DecodedKeyAlwaysFits := by
  intro s t hn h
  rw [exec_decode hn] at h
  cases h
  have hlen : s.secret.length ≤ 256 := by simpa using hn
  have hle := indices_length_le s.secret
  obtain ⟨-, hkey, hvalid, hdropped, -⟩ := holdsDecoding_putDecoding s hlen
  have hfits : (s.putDecoding (b32decode s.secret)).keyLen.toNat ≤ 160 := by omega
  refine ⟨?_, hfits, ?_, (errorOf_hmac _).2 hfits, errorOf_hotp_ne_keyLen hfits⟩
  · rw [State.finish_keyLen, State.finish_decValid, hkey, hvalid]
  · rw [State.finish_decValid, State.finish_decDropped, hvalid, hdropped, ← State.secret_length]
    omega

/-! ### The round trip (R170) -/

theorem fromBe_concat (B : List Byte) (b : Byte) : fromBe (B ++ [b]) = fromBe B * 256 + b.toNat := by
  simp [fromBe]

theorem fromBe_lt (B : List Byte) : fromBe B < 2 ^ (8 * B.length) := by
  induction B using List.reverseRecOn with
  | nil => simp [fromBe]
  | append_singleton B b ih =>
    have hb := b.isLt
    rw [fromBe_concat, List.length_append, List.length_singleton, mul_add, pow_add]
    omega

/-- `be` with its last byte taken off. -/
theorem beBytes_succ_eq_concat (n v : Nat) : beBytes (n + 1) v = beBytes n (v / 256) ++ [BitVec.ofNat 8 v] := by
  induction n with
  | zero => simp [beBytes]
  | succ n ih => rw [beBytes, ih, beBytes, List.cons_append, Nat.div_div_eq_div_mul, ← pow_succ']

theorem beBytes_fromBe (B : List Byte) : beBytes B.length (fromBe B) = B := by
  induction B using List.reverseRecOn with
  | nil => rfl
  | append_singleton B b ih =>
    have hb := b.isLt
    have hdiv : (fromBe B * 256 + b.toNat) / 256 = fromBe B := by omega
    have hlast : BitVec.ofNat 8 (fromBe B * 256 + b.toNat) = b := by bv_omega
    rw [List.length_append, List.length_singleton, beBytes_succ_eq_concat, fromBe_concat, hdiv, hlast, ih]

@[simp] theorem b32digits_length (n v : Nat) : (b32digits n v).length = n := by
  induction n with
  | zero => rfl
  | succ n ih => simp [b32digits, ih]

/-- The digits with the last one taken off. -/
theorem b32digits_succ_eq_concat (n v : Nat) : b32digits (n + 1) v = b32digits n (v / 32) ++ [v % 32] := by
  induction n with
  | zero => simp [b32digits]
  | succ n ih => rw [b32digits, ih, b32digits, List.cons_append, Nat.div_div_eq_div_mul, ← pow_succ']

theorem lt_of_mem_b32digits {n v x : Nat} (h : x ∈ b32digits n v) : x < 32 := by
  induction n with
  | zero => cases h
  | succ n ih =>
    obtain rfl | h := List.mem_cons.1 h
    · exact Nat.mod_lt _ (by decide)
    · exact ih h

/-- The stream of the digits of a number is the number. -/
theorem streamOf_b32digits {n v : Nat} (h : v < 32 ^ n) : streamOf (b32digits n v) = v := by
  induction n generalizing v with
  | zero => exact (Nat.lt_one_iff.1 h).symm
  | succ n ih =>
    rw [b32digits_succ_eq_concat, streamOf_concat, ih (by omega)]
    omega

theorem indices_map_b32char {v : List Nat} (hv : ∀ x ∈ v, x < 32) : indices (v.map b32char) = v := by
  rw [indices, List.filterMap_map]
  calc v.filterMap (b32val ∘ b32char) = v.filterMap some := List.filterMap_congr fun x hx => b32val_b32char x (hv x hx)
    _ = v := List.filterMap_some

/-- `=` has no index (R168). -/
theorem indices_padding (n : Nat) : indices (List.replicate n 0x3D) = [] := by
  induction n with
  | zero => rfl
  | succ n ih => rwa [List.replicate_succ, indices_cons_dropped (by decide)]

theorem indices_b32encode (B : List Byte) :
    indices (b32encode B) =
      b32digits ((8 * B.length + 4) / 5) (fromBe B * 2 ^ (5 * ((8 * B.length + 4) / 5) - 8 * B.length)) := by
  rw [b32encode, indices_append, indices_padding, List.append_nil, indices_map_b32char fun x => lt_of_mem_b32digits]

theorem indices_b32encode_length (B : List Byte) : (indices (b32encode B)).length = (8 * B.length + 4) / 5 := by
  rw [indices_b32encode, b32digits_length]

/-- The stream of the encoding of `B` is `B` followed by the fill bits. -/
theorem streamOf_b32encode (B : List Byte) :
    streamOf (indices (b32encode B)) = fromBe B * 2 ^ (5 * ((8 * B.length + 4) / 5) - 8 * B.length) := by
  rw [indices_b32encode, streamOf_b32digits]
  generalize hn : (8 * B.length + 4) / 5 = n
  calc fromBe B * 2 ^ (5 * n - 8 * B.length)
    _ < 2 ^ (8 * B.length) * 2 ^ (5 * n - 8 * B.length) := Nat.mul_lt_mul_of_pos_right (fromBe_lt B) (by positivity)
    _ = 2 ^ (5 * n) := by rw [← pow_add]; congr 1; omega
    _ = 32 ^ n := pow_mul 2 5 n

/-- Decoding inverts the standard encoding: the fill is shorter than a byte, so it is what decoding discards. -/
theorem b32decode_b32encode_out (B : List Byte) : (b32decode (b32encode B)).out = B := by
  have hbytes : 5 * ((8 * B.length + 4) / 5) / 8 = B.length := by omega
  have hfill : 5 * ((8 * B.length + 4) / 5) % 8 = 5 * ((8 * B.length + 4) / 5) - 8 * B.length := by omega
  simp only [b32decode, indices_b32encode_length, streamOf_b32encode, hbytes, hfill]
  rw [Nat.mul_div_cancel _ (by positivity), beBytes_fromBe]

/-- A secret is told by its length and its bytes (R115). -/
theorem State.secret_eq_of_bytes {E : List Byte} (hlen : s.inLen.toNat = E.length)
    (h : ∀ k < E.length, s.byteOf .inBuf k = E.getD k 0) : s.secret = E := by
  refine List.ext_getElem (by simpa using hlen) fun k hk hk' => ?_
  rw [← List.getD_eq_getElem _ 0 hk', ← h k hk']
  simp [State.secret, State.bytesOf, Memory.readBytes, State.byteOf]

/-- Settles O29: DECODE writes the decoding of the encoding. -/
theorem base32RoundTrip : Obligations.Base32RoundTrip := by
  intro s B hB hE hlen hbytes
  have hs : s.secret = b32encode B := State.secret_eq_of_bytes hlen hbytes
  obtain ⟨-, hkey, -, -, htail⟩ := holdsDecoding_putDecoding s hE
  rw [indices_b32encode_length] at hkey htail
  refine ⟨_, hs ▸ exec_decode (by omega), ?_, fun k hk => ?_, ?_⟩
  · rw [State.finish_keyLen, hkey]
    omega
  · rw [State.finish_byteOf, State.byteOf_putDecoding_keyBuf s _ (by omega), b32decode_b32encode_out]
  · rw [State.finish_decTail, htail]
    omega

end Sys2Proof.Machine
end

section
/-! PROOFS, family 42_hmac_sha1. SHA-1: the padding, the message schedule, the rounds of one block, and the fold over
the blocks. -/

namespace Sys2Proof.Machine

/-! ### Padding (R181) -/

theorem shaPad_length (M : List Byte) : (shaPad M).length = 64 * ((M.length + 8) / 64 + 1) := by
  simp only [shaPad, List.length_append, List.length_singleton, List.length_replicate, beBytes_length]
  omega

/-- Settles O30: the model's remainder on naturals is the rule's on integers. -/
theorem paddingFillsWholeBlocks : Obligations.PaddingFillsWholeBlocks := by
  refine fun M => ⟨?_, shaPad_length M⟩
  have hfill : (55 + 64 * (M.length / 64 + 1) - M.length) % 64 = ((55 - (M.length : Int)) % 64).toNat := by omega
  rw [shaPad, hfill]

/-! ### The message schedule (R182) -/

@[simp] theorem bigEndianWords_length (n : Nat) (b : List Byte) : (bigEndianWords n b).length = n := by
  induction n generalizing b with
  | zero => rfl
  | succ n ih => simp [bigEndianWords, ih]

/-- Word `t` is made of the bytes `4t` to `4t + 3`. -/
theorem bigEndianWords_getD {n t : Nat} (b : List Byte) (h : t < n) :
    (bigEndianWords n b).getD t 0 = BitVec.ofNat 32 (fromBe ((b.drop (4 * t)).take 4)) := by
  induction n generalizing b t with
  | zero => cases h
  | succ n ih =>
    cases t with
    | zero => rfl
    | succ t =>
      rw [bigEndianWords, List.getD_cons_succ, ih _ (Nat.lt_of_succ_lt_succ h), List.drop_drop, Nat.mul_succ,
        Nat.add_comm]

theorem fromBe_take_four_lt (b : List Byte) : fromBe (b.take 4) < 2 ^ 32 :=
  (fromBe_lt _).trans_le (Nat.pow_le_pow_right (by decide) (by simp; omega))

@[simp] theorem extendSchedule_length (n : Nat) (ws : List Word) : (extendSchedule n ws).length = ws.length + n := by
  induction n generalizing ws with
  | zero => rfl
  | succ n ih => rw [extendSchedule, ih, List.length_cons, Nat.add_right_comm, Nat.add_assoc]

/-- Extending the schedule keeps the words it has. -/
theorem extendSchedule_reverse_getD (n : Nat) {ws : List Word} {t : Nat} (h : t < ws.length) :
    (extendSchedule n ws).reverse.getD t 0 = ws.reverse.getD t 0 := by
  induction n generalizing ws with
  | zero => rfl
  | succ n ih =>
    rw [extendSchedule, ih (by simp; omega), List.reverse_cons, List.getD_append _ _ _ _ (by simpa using h)]

/-- Entry `k` of the words so far, the latest first, is the schedule's word `k + 1` places before the next one. -/
theorem extendSchedule_reverse_getD_sub (n : Nat) {ws : List Word} {k : Nat} (h : k < ws.length) :
    (extendSchedule n ws).reverse.getD (ws.length - (k + 1)) 0 = ws.getD k 0 := by
  rw [extendSchedule_reverse_getD n (by omega), List.getD_reverse _ (by omega)]
  congr 1
  omega

/-- The first word that extending the schedule adds. -/
theorem extendSchedule_reverse_getD_length (n : Nat) (ws : List Word) :
    (extendSchedule (n + 1) ws).reverse.getD ws.length 0 =
      (ws.getD 2 0 ^^^ ws.getD 7 0 ^^^ ws.getD 13 0 ^^^ ws.getD 15 0).rotateLeft 1 := by
  rw [extendSchedule, extendSchedule_reverse_getD n (by simp), List.reverse_cons,
    List.getD_append_right _ _ _ _ (by simp), List.length_reverse, Nat.sub_self, List.getD_cons_zero]

/-- Every word added to sixteen or more is the rotated XOR of four earlier ones. -/
theorem extendSchedule_recurrence {n t : Nat} {ws : List Word} (h : 16 ≤ ws.length) (hlo : ws.length ≤ t)
    (hhi : t < ws.length + n) :
    (extendSchedule n ws).reverse.getD t 0 =
      ((extendSchedule n ws).reverse.getD (t - 3) 0 ^^^ (extendSchedule n ws).reverse.getD (t - 8) 0 ^^^
        (extendSchedule n ws).reverse.getD (t - 14) 0 ^^^ (extendSchedule n ws).reverse.getD (t - 16) 0).rotateLeft 1 := by
  induction n generalizing ws with
  | zero => omega
  | succ n ih =>
    obtain rfl | hlt := Nat.eq_or_lt_of_le hlo
    · rw [extendSchedule_reverse_getD_length,
        extendSchedule_reverse_getD_sub (k := 2) _ (by omega), extendSchedule_reverse_getD_sub (k := 7) _ (by omega),
        extendSchedule_reverse_getD_sub (k := 13) _ (by omega), extendSchedule_reverse_getD_sub (k := 15) _ (by omega)]
    · rw [extendSchedule]
      exact ih (by simp; omega) hlt (by simp; omega)

@[simp] theorem schedule_length (B : List Byte) : (schedule B).length = 80 := by
  simp [schedule]

theorem schedule_getD_of_lt {t : Nat} (B : List Byte) (h : t < 16) :
    (schedule B).getD t 0 = BitVec.ofNat 32 (fromBe ((B.drop (4 * t)).take 4)) := by
  rw [schedule, extendSchedule_reverse_getD _ (by simpa using h), List.reverse_reverse, bigEndianWords_getD B h]

/-- Settles O31: the block's words begin the schedule, and extending it follows the recurrence. -/
theorem scheduleFollowsItsRecurrence : Obligations.ScheduleFollowsItsRecurrence := by
  refine fun B _ => ⟨schedule_length B, fun t ht => ?_, fun t hlo hhi => ?_⟩
  · rw [schedule_getD_of_lt B ht, BitVec.toNat_ofNat, Nat.mod_eq_of_lt (fromBe_take_four_lt _)]
  · exact extendSchedule_recurrence (by simp) (by simpa using hlo) (by simpa using hhi)

/-! ### The rounds of one block (R183, R184) -/

/-- The rounds with the last one taken off. -/
theorem shaRounds_concat (t : Nat) (ws : List Word) (w : Word) (x : Chain) :
    shaRounds t (ws ++ [w]) x = shaRound (t + ws.length) w (shaRounds t ws x) := by
  induction ws generalizing t x with
  | nil => rfl
  | cons v ws ih =>
    rw [List.cons_append, shaRounds, ih, shaRounds, List.length_cons, Nat.add_right_comm, Nat.add_assoc]

/-- One more word of the list is one more round. -/
theorem shaRounds_take_succ {ws : List Word} {t : Nat} (h : t < ws.length) (x : Chain) :
    shaRounds 0 (ws.take (t + 1)) x = shaRound t (ws.getD t 0) (shaRounds 0 (ws.take t) x) := by
  rw [List.take_succ_eq_append_getElem h, shaRounds_concat, Nat.zero_add, List.length_take_of_le h.le,
    List.getD_eq_getElem _ _ h]

/-- Settles O32: the round variables after `t` rounds are those of the schedule's first `t` words. -/
theorem compressionRunsEightyRounds : Obligations.CompressionRunsEightyRounds := by
  refine fun h B _ => ⟨fun t => shaRounds 0 ((schedule B).take t) h, rfl, fun t ht => ?_, ?_⟩
  · exact shaRounds_take_succ (by simpa using ht) h
  · have hall : (schedule B).take 80 = schedule B := List.take_of_length_le (by simp)
    simp only [hall]
    rfl

/-! ### The fold over the blocks (R185, R186) -/

/-- Not by `rfl`: comparing the two sides, the kernel would unfold all rounds of the compression. -/
theorem shaBlocks_succ (n : Nat) (p : List Byte) (h : Chain) :
    shaBlocks (n + 1) p h = shaBlocks n (p.drop 64) (compress h (p.take 64)) := by
  conv_lhs => unfold shaBlocks

/-- Block `i` is the bytes `64i` to `64i + 63`. -/
theorem shaBlocks_eq_foldl (n : Nat) (p : List Byte) (h : Chain) :
    shaBlocks n p h = (List.range n).foldl (fun h i => compress h ((p.drop (64 * i)).take 64)) h := by
  induction n generalizing p h with
  | zero => rfl
  | succ n ih =>
    rw [shaBlocks_succ, ih, List.range_succ_eq_map, List.foldl_cons, List.foldl_map]
    simp only [List.drop_drop, Nat.mul_succ, Nat.add_comm, Nat.mul_zero, List.drop_zero]

/-- Settles O33: hashing folds over the blocks, and its output is the five words. -/
theorem hashFoldsItsBlocks : Obligations.HashFoldsItsBlocks := by
  refine fun M => ⟨?_, sha1_length M⟩
  rw [sha1, shaBlocks_eq_foldl]
  rfl

end Sys2Proof.Machine
end

section
/-! PROOFS, family 42_hmac_sha1. HMAC: the key block, the message, and what the command leaves in `DIGEST`. -/

namespace Sys2Proof.Machine

variable {s t : State}

/-! ### The key block (R187) -/

theorem append_replicate_eq_padZeros {n : Nat} {v : List Byte} (h : v.length ≤ n) :
    v ++ List.replicate (n - v.length) 0 = padZeros n v := by
  refine List.ext_getElem (by simp; omega) fun i hi hi' => ?_
  by_cases hv : i < v.length <;> simp [padZeros, hv, List.getElem_append]

theorem padZeros_of_length {n : Nat} {v : List Byte} (h : v.length = n) : padZeros n v = v := by
  rw [← append_replicate_eq_padZeros h.le, h, Nat.sub_self, List.replicate_zero, List.append_nil]

/-- Padding looks at the bytes inside the bound only, those past the end of the string being zeros. -/
theorem padZeros_congr {n : Nat} {u v : List Byte} (h : ∀ i < n, u.getD i 0 = v.getD i 0) :
    padZeros n u = padZeros n v :=
  List.map_congr_left fun i hi => h i (List.mem_range.1 hi)

theorem hmacKey_eq_padZeros (K : List Byte) : hmacKey K = padZeros 64 (if 64 < K.length then sha1 K else K) := by
  refine append_replicate_eq_padZeros (v := if 64 < K.length then sha1 K else K) ?_
  split_ifs with h
  · simp [Config.blockBytes]
  · exact Nat.le_of_not_lt h

theorem hmacKey_eq_padZeros_of_le {K : List Byte} (h : K.length ≤ 64) : hmacKey K = padZeros 64 K := by
  rw [hmacKey_eq_padZeros, if_neg (Nat.not_lt.2 h)]

@[simp] theorem hmacKey_length (K : List Byte) : (hmacKey K).length = 64 := by
  rw [hmacKey_eq_padZeros, padZeros_length]

theorem hmacKey_getD {i : Nat} (K : List Byte) (h : i < 64) :
    (hmacKey K).getD i 0 = if 64 < K.length then (sha1 K).getD i 0 else K.getD i 0 := by
  rw [hmacKey_eq_padZeros, padZeros_getD, if_pos h]
  split_ifs <;> rfl

/-- A byte operation on the whole key block works byte by byte. -/
theorem hmacKey_map (f : Byte → Byte) (K : List Byte) :
    (hmacKey K).map f = (List.range 64).map fun i => f ((hmacKey K).getD i 0) := by
  conv_lhs => rw [← padZeros_of_length (hmacKey_length K), padZeros, List.map_map]
  rfl

/-- Settles O34: the key block is `hmacKey K`. -/
theorem hmacNestsTwoHashes : Obligations.HmacNestsTwoHashes := by
  refine fun K msg => ⟨hmacKey K, hmacKey_length K, fun i => hmacKey_getD K, ?_⟩
  rw [hmacSha1, hmacKey_map, hmacKey_map]

theorem hmacSha1_congr_hmacKey {K K' : List Byte} (h : hmacKey K = hmacKey K') (msg : List Byte) :
    hmacSha1 K msg = hmacSha1 K' msg := by
  rw [hmacSha1, h, hmacSha1]

/-! ### The message (R190) -/

theorem ofNat_div_eq_extractLsb' (c : Dword) (n : Nat) :
    BitVec.ofNat 8 (c.toNat / 256 ^ n) = c.extractLsb' (8 * n) 8 := by
  rw [BitVec.extractLsb', Nat.shiftRight_eq_div_pow, pow_mul]
  rfl

theorem counterMessage_eq_messageBytes (c : Dword) : counterMessage c = messageBytes c := by
  simp only [counterMessage, beBytes, ofNat_div_eq_extractLsb']
  rfl

/-! ### The command (R192) -/

theorem State.keyBytes_eq_key (s : State) : s.keyBytes = s.key := rfl

theorem State.key_getD (s : State) (k : Nat) :
    s.key.getD k 0 = if k < s.keyLen.toNat then s.byteOf .keyBuf k else 0 :=
  Memory.readBytes_getD _ _ _ _

theorem exec_hmac (h : s.keyLen.toNat ≤ 160) :
    exec .hmac s = .next (s.putDigest (hmacSha1 s.key (counterMessage s.counter))).finish :=
  exec_of_pass _ _ ((errorOf_hmac s).2 h)

theorem errorOf_hmac_too_long (h : 160 < s.keyLen.toNat) : errorOf .hmac s = some 3 := by
  simp [errorOf, h]

theorem State.byteOf_putDigest (s : State) (d : List Byte) {k : Nat} (h : k < 20) :
    (s.putDigest d).byteOf .digest k = d.getD k 0 :=
  State.byteOf_fillBuf _ _ _ _ h

theorem holdsMac_putDigest (s : State) (K : List Byte) (c : Dword) :
    holdsMac K c (s.putDigest (hmacSha1 K (counterMessage c))) := fun k hk => by
  rw [State.byteOf_putDigest s _ hk, counterMessage_eq_messageBytes]

/-- Settles O16: a key that fits gives the MAC in `DIGEST`, a longer one is refused. -/
theorem hmacWritesTheDigest : Obligations.HmacWritesTheDigest := by
  refine ⟨decodeCmd_encode .hmac, fun s => ⟨fun h => ⟨_, exec_hmac h, ?_, ?_, rfl⟩, fun h => ?_⟩⟩
  · exact holdsMac_putDigest s s.key s.counter
  · exact fun a ha => (WritesOnly.putDigest s _).mem a fun b hb => ha b (by simpa [Instr.writeSet] using hb)
  · exact exec_of_error _ _ _ (errorOf_hmac_too_long h)

/-! ### Trailing zero bytes of the key (R189) -/

/-- Zero bytes after a key that fits one block are what fills the block anyway. -/
theorem hmacKey_key_congr (hle : s.keyLen.toNat ≤ t.keyLen.toNat) (ht : t.keyLen.toNat ≤ 64)
    (hkey : ∀ k < s.keyLen.toNat, s.byteOf .keyBuf k = t.byteOf .keyBuf k)
    (hzero : ∀ k, s.keyLen.toNat ≤ k → k < t.keyLen.toNat → t.byteOf .keyBuf k = 0) :
    hmacKey s.key = hmacKey t.key := by
  rw [hmacKey_eq_padZeros_of_le (by simpa using hle.trans ht), hmacKey_eq_padZeros_of_le (by simpa using ht)]
  refine padZeros_congr fun k _ => ?_
  rw [State.key_getD, State.key_getD]
  split_ifs with hs htk htk
  · exact hkey k hs
  · omega
  · exact (hzero k (Nat.le_of_not_lt hs) htk).symm
  · rfl

/-- Settles O35: both keys fill the same block, so both commands write the same MAC. -/
theorem trailingZeroKeyBytesDoNotMatter : Obligations.TrailingZeroKeyBytesDoNotMatter := by
  intro s t s' t' hle ht hc hkey hzero hs' ht' k hk
  rw [exec_hmac (by omega)] at hs' ht'
  cases hs'
  cases ht'
  rw [State.finish_byteOf, State.finish_byteOf, State.byteOf_putDigest s _ hk, State.byteOf_putDigest t _ hk, hc,
    hmacSha1_congr_hmacKey (hmacKey_key_congr hle ht hkey hzero)]

end Sys2Proof.Machine
end

section
/-! PROOFS, family 43_reduce_hotp. What a reduction leaves in the registers and in `CODE_CHARS`; then REDUCE, HOTP as
HMAC followed by REDUCE, and the decimal form and ranges of the code after any command that ends in a reduction. -/

namespace Sys2Proof.Machine

variable {s t : State}

/-! ### The reduction function on numbers (R221) -/

theorem truncOffset_digest (s : State) : truncOffset s.digest = (s.byteOf .digest 19).toNat % 16 := by
  rw [truncOffset, State.digest_getD s 19 (by decide), BitVec.toNat_and]
  exact Nat.and_two_pow_sub_one_eq_mod _ 4

theorem truncOffset_digest_lt (s : State) : truncOffset s.digest < 16 := by
  rw [truncOffset_digest]
  exact Nat.mod_lt _ (by decide)

/-- The offset is at most 15, so the four bytes lie inside the digest. -/
theorem truncBinary_digest (s : State) {off : Nat} (h : off < 16) :
    truncBinary s.digest off = (s.byteOf .digest off).toNat % 128 * 2 ^ 24 +
      (s.byteOf .digest (off + 1)).toNat * 2 ^ 16 + (s.byteOf .digest (off + 2)).toNat * 2 ^ 8 +
      (s.byteOf .digest (off + 3)).toNat := by
  have hmask (x : Byte) : (x &&& 0x7F).toNat = x.toNat % 128 := by
    rw [BitVec.toNat_and]
    exact Nat.and_two_pow_sub_one_eq_mod _ 7
  rw [truncBinary, hmask, State.digest_getD s _ (by omega), State.digest_getD s _ (by omega),
    State.digest_getD s _ (by omega), State.digest_getD s _ (by omega)]

theorem codeChars_getD {code n k : Nat} (h : k < 12) :
    (codeChars code n).getD k 0 = if k < n then BitVec.ofNat 8 (0x30 + code / 10 ^ (n - 1 - k) % 10) else 0 := by
  simp [codeChars, Config.codeCharsBytes, h]

/-! ### A reduction committed (R222) -/

theorem State.byteOf_putReduction_codeChars (s : State) (r : Reduction) {k : Nat} (h : k < 12) :
    (s.putReduction r).byteOf .codeChars k = r.chars.getD k 0 := by
  rw [State.byteOf_congr_mem _ _ (State.putReduction_mem s r), State.byteOf_fillBuf _ _ _ _ h]

theorem State.byteOf_putReduction_digest (s : State) (r : Reduction) {k : Nat} (h : k < 20) :
    (s.putReduction r).byteOf .digest k = s.byteOf .digest k := by
  rw [State.byteOf_congr_mem _ _ (State.putReduction_mem s r), State.byteOf_fillBuf_ne _ _ _ (by decide) _ _ h]

@[simp] theorem State.digest_putReduction (s : State) (r : Reduction) : (s.putReduction r).digest = s.digest :=
  Memory.readBytes_congr _ _ _ _ fun _ hk => State.byteOf_putReduction_digest s r hk

/-- R221 on the model's own terms: the registers and characters in turn, each from the one before. -/
theorem holdsReduction_iff (n : Nat) (t : State) : holdsReduction n t ↔
    t.offset.toNat = truncOffset t.digest ∧ t.binary.toNat = truncBinary t.digest (truncOffset t.digest) ∧
    t.code.toNat = t.binary.toNat % 10 ^ n ∧
    ∀ k < 12, t.byteOf .codeChars k =
      if k < n then BitVec.ofNat 8 (0x30 + t.code.toNat / 10 ^ (n - 1 - k) % 10) else 0 := by
  simp only [holdsReduction, ← truncOffset_digest, ← truncBinary_digest t (truncOffset_digest_lt t)]
  refine and_congr_right fun _ => and_congr_right fun hbin => ?_
  rw [← hbin]
  exact and_congr_right fun hcode => by rw [hcode]

@[simp] theorem holdsReduction_finish (n : Nat) (s : State) : holdsReduction n s.finish ↔ holdsReduction n s := Iff.rfl

/-- The offset has 4 bits, the binary code 31, and the code is no larger, so each fits its register. -/
theorem holdsReduction_putReduction (s : State) (n : Nat) :
    holdsReduction n (s.putReduction (reduceDigest s.digest n)) := by
  have hoff := truncOffset_digest_lt s
  have hbin := truncBinary_lt s.digest (truncOffset s.digest)
  have hcode := Nat.mod_le (truncBinary s.digest (truncOffset s.digest)) (10 ^ n)
  rw [holdsReduction_iff, State.digest_putReduction, State.putReduction_offset, State.putReduction_binary,
    State.putReduction_code]
  simp only [reduceDigest, BitVec.toNat_ofNat, Nat.mod_eq_of_lt hoff, Nat.mod_eq_of_lt hbin,
    Nat.mod_eq_of_lt (hcode.trans_lt (hbin.trans (by decide : 2 ^ 31 < 2 ^ 32)))]
  refine ⟨trivial, trivial, trivial, fun k hk => ?_⟩
  rw [State.byteOf_putReduction_codeChars s _ hk, codeChars_getD hk]

/-- The reduction of a digest written just before. -/
theorem holdsReduction_putReduction_putDigest (s : State) {d : List Byte} (h : d.length = 20) (n : Nat) :
    holdsReduction n ((s.putDigest d).putReduction (reduceDigest d n)) := by
  have hr := holdsReduction_putReduction (s.putDigest d) n
  rwa [State.digest_putDigest s d h] at hr

/-- Writing a digest and a reduction changes the byte store and three registers. -/
theorem finish_putReduction_putDigest_frame (s : State) (d : List Byte) (r : Reduction) :
    let t := ((s.putDigest d).putReduction r).finish
    t = { s with
      mem := t.mem, offset := t.offset, binary := t.binary, code := t.code
      status := s.status.afterSuccess, phase := .idle } := by
  intro t
  rfl

/-! ### REDUCE (R222) -/

theorem exec_reduce (h : 1 ≤ s.digits.toNat ∧ s.digits.toNat ≤ 10) :
    exec .reduce s = .next (s.putReduction (reduceDigest s.digest s.digits.toNat)).finish :=
  exec_of_pass _ _ ((errorOf_reduce s).2 h)

theorem errorOf_reduce_illegal_digits (h : s.digits.toNat = 0 ∨ 10 < s.digits.toNat) : errorOf .reduce s = some 4 := by
  simp [errorOf, h]

/-- Settles O17: a legal digit count gives the reduction of `DIGEST`, an illegal one is refused. -/
theorem reduceWritesTheCode : Obligations.ReduceWritesTheCode := by
  refine ⟨decodeCmd_encode .reduce, fun s => ⟨fun h => ⟨_, exec_reduce h, ?_, ?_, rfl⟩, fun h => ?_⟩⟩
  · exact (holdsReduction_finish _ _).2 (holdsReduction_putReduction s s.digits.toNat)
  · exact fun a ha => (WritesOnly.putReduction s _).mem a fun b hb => ha b (by simpa [Instr.writeSet] using hb)
  · exact exec_of_error _ _ _ (errorOf_reduce_illegal_digits h)

/-! ### HOTP (R223) -/

theorem exec_hotp (hk : s.keyLen.toNat ≤ 160) (hd : 1 ≤ s.digits.toNat ∧ s.digits.toNat ≤ 10) :
    exec .hotp s = .next ((s.putDigest (hmacSha1 s.key (counterMessage s.counter))).putReduction
      (reduceDigest (hmacSha1 s.key (counterMessage s.counter)) s.digits.toNat)).finish :=
  exec_of_pass _ _ ((errorOf_hotp s).2 ⟨hk, hd⟩)

theorem errorOf_hotp_key_too_long (h : 160 < s.keyLen.toNat) : errorOf .hotp s = some 3 := by
  simp [errorOf, h]

theorem errorOf_hotp_illegal_digits (hk : s.keyLen.toNat ≤ 160) (hd : s.digits.toNat = 0 ∨ 10 < s.digits.toNat) :
    errorOf .hotp s = some 4 := by
  simp [errorOf, hk, hd]

/-- A reduction leaves the MAC in `DIGEST`. -/
theorem holdsMac_putReduction {K : List Byte} {c : Dword} (h : holdsMac K c s) (r : Reduction) :
    holdsMac K c (s.putReduction r) := fun k hk => by
  rw [State.byteOf_putReduction_digest s r hk, h k hk]

/-- Settles O18: the MAC and its reduction are written, or the first failing check refuses the command. -/
theorem hotpWritesDigestAndCode : Obligations.HotpWritesDigestAndCode := by
  refine ⟨decodeCmd_encode .hotp, fun s =>
    ⟨fun hk hd => ⟨_, exec_hotp hk hd, ?_, ?_, ?_, finish_putReduction_putDigest_frame _ _ _⟩,
      fun hk => ?_, fun hk hd => ?_⟩⟩
  · exact holdsMac_putReduction (holdsMac_putDigest s s.key s.counter) _
  · exact (holdsReduction_finish _ _).2 (holdsReduction_putReduction_putDigest s (hmacSha1_length _ _) s.digits.toNat)
  · exact fun a ha => (WritesOnly.commitOf .hotp s).mem a fun b hb => ha b (by simpa [Instr.writeSet] using hb)
  · exact exec_of_error _ _ _ (errorOf_hotp_key_too_long hk)
  · exact exec_of_error _ _ _ (errorOf_hotp_illegal_digits hk hd)

/-- Ending a command before a reduction changes only what the end of REDUCE sets again. -/
theorem finish_putReduction_finish (s : State) (r : Reduction) :
    (s.finish.putReduction r).finish = (s.putReduction r).finish :=
  rfl

/-- Settles O19: REDUCE reads the digest HMAC has just written, and HMAC's end leaves the digit count. -/
theorem hotpIsHmacThenReduce : Obligations.HotpIsHmacThenReduce := by
  intro s t u h hmac hreduce
  obtain ⟨hk, hd⟩ := (errorOf_hotp s).1 h
  rw [exec_hmac hk] at hmac
  cases hmac
  rw [exec_reduce (by simpa using hd), finish_putReduction_finish, State.finish_digest, State.finish_digits,
    State.digest_putDigest _ _ (hmacSha1_length _ _), State.putDigest_digits] at hreduce
  rw [exec_hotp hk hd, hreduce]

/-! ### The commands that end in a reduction (R224, R225) -/

section
variable {i : Instr} (hi : i = .reduce ∨ i = .hotp ∨ ∃ x, i = .totp x) (he : errorOf i s = none)
include hi he

theorem digits_le_of_reduction : s.digits.toNat ≤ 10 := by
  obtain rfl | rfl | ⟨x, rfl⟩ := hi
  · exact ((errorOf_reduce s).1 he).2
  · obtain ⟨-, -, hle⟩ := (errorOf_hotp s).1 he
    exact hle
  · obtain ⟨-, ⟨-, hle⟩, -⟩ := (errorOf_totp s x).1 he
    exact hle

/-- REDUCE, HOTP and TOTP leave the reduction of the digest they leave. -/
theorem holdsReduction_of_exec (h : exec i s = .next t) : holdsReduction s.digits.toNat t := by
  rw [exec_of_pass i s he] at h
  cases h
  rw [holdsReduction_finish]
  obtain rfl | rfl | ⟨x, rfl⟩ := hi
  · exact holdsReduction_putReduction s s.digits.toNat
  · exact holdsReduction_putReduction_putDigest s (hmacSha1_length _ _) s.digits.toNat
  · exact holdsReduction_putReduction_putDigest _ (hmacSha1_length _ _) s.digits.toNat

end

namespace holdsReduction

variable {n k : Nat}

theorem code_eq_binary_mod (h : holdsReduction n t) : t.code.toNat = t.binary.toNat % 10 ^ n := by
  obtain ⟨-, -, hcode, -⟩ := (holdsReduction_iff n t).1 h
  exact hcode

theorem code_lt_pow (h : holdsReduction n t) : t.code.toNat < 10 ^ n := by
  rw [h.code_eq_binary_mod]
  exact Nat.mod_lt _ (by positivity)

/-- A character of the code is the code's decimal digit at its place. -/
theorem codeChar_toNat (h : holdsReduction n t) (hk : k < n) (hn : n ≤ 12) :
    (t.byteOf .codeChars k).toNat = 0x30 + t.code.toNat / 10 ^ (n - 1 - k) % 10 := by
  obtain ⟨-, -, -, hchars⟩ := (holdsReduction_iff n t).1 h
  rw [hchars k (by omega), if_pos hk, BitVec.toNat_ofNat]
  omega

theorem codeChar_eq_zero (h : holdsReduction n t) (hn : n ≤ k) (hk : k < 12) : t.byteOf .codeChars k = 0 := by
  obtain ⟨-, -, -, hchars⟩ := (holdsReduction_iff n t).1 h
  rw [hchars k hk, if_neg (Nat.not_lt.2 hn)]

end holdsReduction

/-- The first `m` of the `n` decimal digits of `v`, read as a number, are `v` without its last `n - m` digits. -/
theorem foldl_decimal {n v : Nat} {digit : Nat → Nat} (hv : v < 10 ^ n)
    (hd : ∀ k < n, digit k = v / 10 ^ (n - 1 - k) % 10) {m : Nat} (hm : m ≤ n) :
    (List.range m).foldl (fun acc k => acc * 10 + digit k) 0 = v / 10 ^ (n - m) := by
  induction m with
  | zero => exact (Nat.div_eq_of_lt hv).symm
  | succ m ih =>
    have hpow : 10 ^ (n - m) = 10 ^ (n - 1 - m) * 10 := by
      rw [← pow_succ]
      congr 1
      omega
    have hsub : n - (m + 1) = n - 1 - m := by omega
    rw [List.range_succ, List.foldl_concat, ih (Nat.le_of_succ_le hm), hd m hm, hpow, ← Nat.div_div_eq_div_mul, hsub]
    omega

/-- Settles O36: the characters are the decimal digits of a code that has no more than `DIGITS` of them. -/
theorem codeIsFixedWidthDecimal : Obligations.CodeIsFixedWidthDecimal := by
  intro i s t hi he h
  have hr := holdsReduction_of_exec hi he h
  have hn := digits_le_of_reduction hi he
  have hdigit : ∀ k < s.digits.toNat, (t.byteOf .codeChars k).toNat - 0x30 =
      t.code.toNat / 10 ^ (s.digits.toNat - 1 - k) % 10 := fun k hk => by
    rw [hr.codeChar_toNat hk (by omega), Nat.add_sub_cancel_left]
  refine ⟨fun k hk => ?_, fun k => hr.codeChar_eq_zero, ?_⟩
  · rw [hr.codeChar_toNat hk (by omega)]
    omega
  · rw [foldl_decimal hr.code_lt_pow hdigit le_rfl, Nat.sub_self, pow_zero, Nat.div_one]

/-- Settles O37: the register widths bound `OFFSET` and `BINARY`, and `BINARY` has at most ten digits. -/
theorem reductionStaysInRange : Obligations.ReductionStaysInRange := by
  intro i s t hi he h
  have hr := holdsReduction_of_exec hi he h
  have hoff := t.offset.isLt
  have hbin := t.binary.isLt
  have hcode := hr.code_eq_binary_mod
  refine ⟨by omega, by omega, hr.code_lt_pow, hcode ▸ (Nat.mod_le _ _).trans_lt hbin, fun hten => ?_⟩
  rw [hten] at hr hcode
  rw [Nat.mod_eq_of_lt (by omega)] at hcode
  exact ⟨hcode, fun k hk => hcode ▸ hr.codeChar_toNat hk (by decide)⟩

end Sys2Proof.Machine
end

section
/-! PROOFS, family 44_totp. The window arithmetic and TCOUNT; then TOTP as its stages, in what it leaves and as the four
commands in turn; then how codes, counters and seconds remaining follow the timestamps. -/

namespace Sys2Proof.Machine

variable {s t : State}

/-! ### The timestamp and its window (R112, R240) -/

theorem State.timeOperand_toNat (s : State) (x : Bool) :
    (s.timeOperand x).toNat = if x then s.timestamp.toNat else s.tsSample.toNat :=
  apply_ite BitVec.toNat _ _ _

theorem windowCounter_congr {ts ts' : Dword} {step step' : Word}
    (h : ts.toNat / step.toNat = ts'.toNat / step'.toNat) : windowCounter ts step = windowCounter ts' step' :=
  congrArg (BitVec.ofNat 64) h

/-- Between two timestamps in a row the remainder grows by 1, or it starts again at 0 after its largest value. -/
theorem mod_succ_cases (ts : Nat) {step : Nat} (h : step ≠ 0) :
    ((ts + 1) % step = 0 ∧ ts % step + 1 = step) ∨ ((ts + 1) % step ≠ 0 ∧ (ts + 1) % step = ts % step + 1) := by
  have hlt : ts % step < step := Nat.mod_lt _ (Nat.pos_of_ne_zero h)
  rw [← Nat.mod_add_mod]
  obtain hlast | hinside : ts % step + 1 = step ∨ ts % step + 1 < step := by omega
  · exact .inl ⟨by rw [hlast, Nat.mod_self], hlast⟩
  · rw [Nat.mod_eq_of_lt hinside]
    exact .inr ⟨Nat.succ_ne_zero _, rfl⟩

namespace holdsWindow

variable {ts step : Nat}

theorem secRemain_pos (h : holdsWindow ts step t) (hstep : step ≠ 0) : 1 ≤ t.secRemain.toNat := by
  have hlt : ts % step < step := Nat.mod_lt _ (Nat.pos_of_ne_zero hstep)
  obtain ⟨-, hrem⟩ := h
  omega

theorem secRemain_le (h : holdsWindow ts step t) : t.secRemain.toNat ≤ step := by
  obtain ⟨-, hrem⟩ := h
  omega

/-- R245, on the windows of two timestamps in a row. -/
theorem secRemain_succ (hs : holdsWindow ts step s) (ht : holdsWindow (ts + 1) step t) (hstep : step ≠ 0) :
    if (ts + 1) % step = 0
      then s.secRemain.toNat = 1 ∧ t.secRemain.toNat = step
      else s.secRemain.toNat = t.secRemain.toNat + 1 := by
  have hlt : (ts + 1) % step < step := Nat.mod_lt _ (Nat.pos_of_ne_zero hstep)
  obtain ⟨-, hrem⟩ := hs
  obtain ⟨-, hrem'⟩ := ht
  obtain ⟨hzero, hlast⟩ | ⟨hne, hsucc⟩ := mod_succ_cases ts hstep
  · rw [if_pos hzero]
    omega
  · rw [if_neg hne]
    omega

/-- R246, on the windows of two timestamps. -/
theorem counter_mono {ts' : Nat} (hs : holdsWindow ts step s) (ht : holdsWindow ts' step t) (h : ts ≤ ts') :
    s.counter.toNat ≤ t.counter.toNat := by
  rw [hs.1, ht.1]
  exact Nat.div_le_div_right h

end holdsWindow

/-! ### TCOUNT (R241) -/

theorem exec_tcount {x : Bool} (h : s.timeStep.toNat ≠ 0) : exec (.tcount x) s = .next (s.putWindow x).finish :=
  exec_of_pass _ _ ((errorOf_tcount s x).2 h)

theorem errorOf_tcount_zero_step (x : Bool) (h : s.timeStep.toNat = 0) : errorOf (.tcount x) s = some 5 := by
  simp [errorOf, h]

/-- Settles O20: a time step other than 0 gives the window of the timestamp chosen, 0 is refused. -/
theorem tcountWritesTheWindow : Obligations.TcountWritesTheWindow := by
  refine ⟨decodeCmd_encode (.tcount false), decodeCmd_encode (.tcount true), fun s x =>
    ⟨fun h => ⟨_, exec_tcount h, ?_, ?_, ?_⟩, fun h => ?_⟩⟩
  · rw [← State.timeOperand_toNat]
    exact holdsWindow_putWindow s x
  · exact State.putWindow_timestamp s x
  · cases x <;> rfl
  · exact exec_of_error _ _ _ (errorOf_tcount_zero_step x h)

/-! ### TOTP as its stages (R242) -/

/-- The MAC TOTP writes: of the window's counter under the decoded secret. -/
def State.totpDigest (s : State) (x : Bool) : List Byte :=
  hmacSha1 (b32decode s.secret).out (counterMessage (windowCounter (s.timeOperand x) s.timeStep))

@[simp] theorem State.totpDigest_length (s : State) (x : Bool) : (s.totpDigest x).length = 20 := hmacSha1_length _ _

/-- The state after the stages before the MAC: the decoded key and the window. -/
def State.putKeyAndWindow (s : State) (x : Bool) : State := (s.putDecoding (b32decode s.secret)).putWindow x

theorem State.putTotp_eq (s : State) (x : Bool) : s.putTotp x =
    ((s.putKeyAndWindow x).putDigest (s.totpDigest x)).putReduction (reduceDigest (s.totpDigest x) s.digits.toNat) :=
  rfl

theorem exec_totp {x : Bool} (h : errorOf (.totp x) s = none) : exec (.totp x) s = .next (s.putTotp x).finish :=
  exec_of_pass _ _ h

theorem errorOf_totp_secret_too_long (x : Bool) (h : 256 < s.inLen.toNat) : errorOf (.totp x) s = some 2 := by
  simp [errorOf, h]

theorem errorOf_totp_illegal_digits (x : Bool) (hn : s.inLen.toNat ≤ 256)
    (hd : s.digits.toNat = 0 ∨ 10 < s.digits.toNat) : errorOf (.totp x) s = some 4 := by
  simp [errorOf, hn, hd]

theorem errorOf_totp_zero_step (x : Bool) (hn : s.inLen.toNat ≤ 256)
    (hd : 1 ≤ s.digits.toNat ∧ s.digits.toNat ≤ 10) (h : s.timeStep.toNat = 0) : errorOf (.totp x) s = some 5 := by
  have hlegal : ¬ (s.digits.toNat = 0 ∨ 10 < s.digits.toNat) := by omega
  simp [errorOf, hn, hlegal, h]

/-! ### What TOTP leaves (R242) -/

/-- Places outside a write set are kept. -/
theorem WritesOnly.agreeOn {ws ws' : List Place} (h : WritesOnly ws s t) (hd : ∀ p ∈ ws', p ∉ ws) :
    AgreeOn ws' s t where
  reg r hr := (h.reg r (hd _ hr)).symm
  buf b hb k hk := by
    have hold : b.holds (b.base + k) = true := (Buf.holds_iff b _).2 ⟨by omega, by omega⟩
    refine (h.mem _ fun c hc => ?_).symm
    rw [← Bool.not_eq_true, Buf.holds_iff_eq hold c]
    rintro rfl
    exact hd _ hb hc

/-- What DECODE writes tells whether a state holds a decoding. -/
theorem holdsDecoding.congr {secret : List Byte} (h : holdsDecoding secret s)
    (ha : AgreeOn (Instr.writeSet .decode) s t) : holdsDecoding secret t := by
  obtain ⟨hbytes, hkey, hvalid, hdropped, htail⟩ := h
  refine ⟨fun j hj => ?_, ?_, ?_, ?_, ?_⟩
  · rw [← ha.buf .keyBuf (by decide) j hj, hbytes j hj]
  · rw [← setWidth_injective (by decide) (ha.reg .keyLen (by decide)), hkey]
  · rw [← setWidth_injective (by decide) (ha.reg .decValid (by decide)), hvalid]
  · rw [← setWidth_injective (by decide) (ha.reg .decDropped (by decide)), hdropped]
  · rw [← setWidth_injective (by decide) (ha.reg .decTail (by decide)), htail]

/-- What DECODE writes tells the key. -/
theorem AgreeOn.key_eq (ha : AgreeOn (Instr.writeSet .decode) s t) (h : s.keyLen.toNat ≤ 160) : s.key = t.key := by
  rw [State.key, State.key, ← setWidth_injective (by decide) (ha.reg .keyLen (by decide))]
  exact Memory.readBytes_congr _ _ _ _ fun k hk => ha.buf .keyBuf (by decide) k (hk.trans_le h)

theorem State.key_decoded (h : s.inLen.toNat ≤ 256) :
    (s.putDecoding (b32decode s.secret)).key = (b32decode s.secret).out :=
  State.key_putDecoding _ _ (b32decode_fits _ (by simpa using h))

/-- The decoded key passes the length check of HMAC. -/
theorem State.keyLen_decoded_le (h : s.inLen.toNat ≤ 256) :
    (s.putDecoding (b32decode s.secret)).keyLen.toNat ≤ 160 := by
  rw [← State.key_length, State.key_decoded h]
  exact b32decode_fits _ (by simpa using h)

/-- The stages after the decoding leave what it wrote. -/
theorem agreeOn_putDecoding_putTotp (s : State) (x : Bool) :
    AgreeOn (Instr.writeSet .decode) (s.putDecoding (b32decode s.secret)) (s.putTotp x) := by
  have hlater := ((WritesOnly.putWindow (s.putDecoding (b32decode s.secret)) x).append
    (.putDigest _ (s.totpDigest x))).append (.putReduction _ (reduceDigest (s.totpDigest x) s.digits.toNat))
  exact hlater.agreeOn (by cases x <;> decide)

theorem holdsDecoding_putTotp (x : Bool) (h : s.inLen.toNat ≤ 256) : holdsDecoding s.secret (s.putTotp x) :=
  (holdsDecoding_putDecoding s (by simpa using h)).congr (agreeOn_putDecoding_putTotp s x)

theorem State.putTotp_key (x : Bool) (h : s.inLen.toNat ≤ 256) : (s.putTotp x).key = (b32decode s.secret).out := by
  rw [← (agreeOn_putDecoding_putTotp s x).key_eq (State.keyLen_decoded_le h), State.key_decoded h]

/-- The window is taken from operands the decoding leaves, and the stages after it leave its registers. -/
theorem holdsWindow_putTotp (s : State) (x : Bool) :
    holdsWindow (s.timeOperand x).toNat s.timeStep.toNat (s.putTotp x) :=
  holdsWindow_putWindow (s.putDecoding (b32decode s.secret)) x

theorem State.putTotp_counter (s : State) (x : Bool) :
    (s.putTotp x).counter = windowCounter (s.timeOperand x) s.timeStep :=
  State.putWindow_counter (s.putDecoding (b32decode s.secret)) x

theorem State.putTotp_timestamp (s : State) (x : Bool) : (s.putTotp x).timestamp = s.timeOperand x :=
  State.putWindow_timestamp (s.putDecoding (b32decode s.secret)) x

/-- The MAC is under the key and of the counter that stand in the state afterwards. -/
theorem holdsMac_putTotp (x : Bool) (h : s.inLen.toNat ≤ 256) :
    holdsMac (s.putTotp x).key (s.putTotp x).counter (s.putTotp x) := by
  rw [State.putTotp_key x h, State.putTotp_counter]
  exact holdsMac_putReduction (holdsMac_putDigest (s.putKeyAndWindow x) _ _) _

theorem holdsReduction_putTotp (s : State) (x : Bool) : holdsReduction s.digits.toNat (s.putTotp x) :=
  holdsReduction_putReduction_putDigest (s.putKeyAndWindow x) (s.totpDigest_length x) s.digits.toNat

/-- TOTP changes the byte store and the registers of its write set. -/
theorem finish_putTotp_frame (s : State) (x : Bool) :
    let t := (s.putTotp x).finish
    t = { s with
      mem := t.mem, keyLen := t.keyLen, decValid := t.decValid, decDropped := t.decDropped, decTail := t.decTail
      counterHi := t.counterHi, counterLo := t.counterLo, secRemain := t.secRemain
      timestampHi := t.timestampHi, timestampLo := t.timestampLo
      offset := t.offset, binary := t.binary, code := t.code
      status := s.status.afterSuccess, phase := .idle } := by
  cases x <;> rfl

/-- Settles O21: passing checks commit every stage, or the first failing check refuses the command. -/
theorem totpWritesEveryStage : Obligations.TotpWritesEveryStage := by
  refine ⟨decodeCmd_encode (.totp false), decodeCmd_encode (.totp true), fun s x =>
    ⟨fun hn hd hstep => ⟨_, exec_totp ((errorOf_totp s x).2 ⟨hn, hd, hstep⟩), holdsDecoding_putTotp x hn, ?_,
      State.putTotp_timestamp s x, holdsMac_putTotp x hn, holdsReduction_putTotp s x, ?_, finish_putTotp_frame s x⟩,
      fun hn => ?_, fun hn hd => ?_, fun hn hd hstep => ?_⟩⟩
  · rw [← State.timeOperand_toNat]
    exact holdsWindow_putTotp s x
  · exact fun a ha => (WritesOnly.commitOf (.totp x) s).mem a fun b hb =>
      ha b (by cases x <;> simpa [Instr.writeSet] using hb)
  · exact exec_of_error _ _ _ (errorOf_totp_secret_too_long x hn)
  · exact exec_of_error _ _ _ (errorOf_totp_illegal_digits x hn hd)
  · exact exec_of_error _ _ _ (errorOf_totp_zero_step x hn hd hstep)

/-! ### TOTP as four commands (R243) -/

theorem State.putWindow_key (s : State) (x : Bool) : (s.putWindow x).key = s.key := by
  cases x <;> rfl

/-- DECODE and then TCOUNT: TCOUNT's operands and its check are the ones before DECODE. -/
theorem exec_tcount_after_decode {x : Bool} (h : s.timeStep.toNat ≠ 0) :
    exec (.tcount x) (s.putDecoding (b32decode s.secret)).finish = .next (s.putKeyAndWindow x).finish := by
  rw [exec_tcount (by simpa using h)]
  cases x <;> rfl

/-- HMAC on the decoded key and the window's counter gives the MAC of TOTP. -/
theorem exec_hmac_after_window (x : Bool) (h : s.inLen.toNat ≤ 256) :
    exec .hmac (s.putKeyAndWindow x).finish = .next ((s.putKeyAndWindow x).putDigest (s.totpDigest x)).finish := by
  have hlen : (s.putKeyAndWindow x).finish.keyLen.toNat ≤ 160 := by
    rw [State.finish_keyLen, State.putKeyAndWindow, State.putWindow_keyLen]
    exact State.keyLen_decoded_le h
  rw [exec_hmac hlen, State.finish_key, State.finish_counter, State.putKeyAndWindow, State.putWindow_key,
    State.key_decoded h, State.putWindow_counter]
  rfl

/-- REDUCE on the MAC of TOTP ends as TOTP does. -/
theorem exec_reduce_after_hmac (x : Bool) (h : 1 ≤ s.digits.toNat ∧ s.digits.toNat ≤ 10) :
    exec .reduce ((s.putKeyAndWindow x).putDigest (s.totpDigest x)).finish = .next (s.putTotp x).finish := by
  have hd : ((s.putKeyAndWindow x).putDigest (s.totpDigest x)).finish.digits = s.digits := by
    simp [State.putKeyAndWindow]
  rw [exec_reduce (by rwa [hd]), hd, finish_putReduction_finish, State.finish_digest,
    State.digest_putDigest _ _ (s.totpDigest_length x), State.putTotp_eq]

/-- Settles O22: each command reads what the one before it has just written. -/
theorem totpIsItsFourStages : Obligations.TotpIsItsFourStages := by
  intro x s t₁ t₂ t₃ t₄ h hdecode htcount hhmac hreduce
  obtain ⟨hn, hd, hstep⟩ := (errorOf_totp s x).1 h
  rw [exec_decode hn] at hdecode
  cases hdecode
  rw [exec_tcount_after_decode hstep] at htcount
  cases htcount
  rw [exec_hmac_after_window x hn] at hhmac
  cases hhmac
  rw [exec_totp h, ← hreduce, exec_reduce_after_hmac x hd]

/-! ### One window, one code (R244) -/

theorem State.totpDigest_congr {x y : Bool} (hsecret : s.secret = t.secret)
    (hc : windowCounter (s.timeOperand x) s.timeStep = windowCounter (t.timeOperand y) t.timeStep) :
    s.totpDigest x = t.totpDigest y := by
  rw [State.totpDigest, hsecret, hc, State.totpDigest]

/-- With one MAC and one digit count TOTP leaves one `DIGEST` and one reduction. -/
theorem agreeOn_putTotp {x y : Bool} (hmac : s.totpDigest x = t.totpDigest y) (hd : s.digits = t.digits) :
    AgreeOn (Instr.writeSet .hmac ++ Instr.writeSet .reduce) (s.putTotp x) (t.putTotp y) := by
  rw [State.putTotp_eq, State.putTotp_eq, hmac, hd]
  exact (AgreeOn.putDigest _ _ _).thenReduction _

/-- Settles O38: the secret and the window decide the MAC, the MAC and the digit count the rest. -/
theorem sameWindowSameCode : Obligations.SameWindowSameCode := by
  intro s t s' t' x y hsecret hd hstep hwindow he hs ht
  have hn : s.inLen.toNat = t.inLen.toNat := by
    rw [← s.secret_length, ← t.secret_length]
    exact congrArg List.length hsecret
  have he' : errorOf (.totp y) t = none := by
    rw [errorOf_totp, ← hn, ← hd, ← hstep]
    exact (errorOf_totp s x).1 he
  rw [exec_totp he] at hs
  rw [exec_totp he'] at ht
  cases hs
  cases ht
  have hc := windowCounter_congr hwindow
  have ha := agreeOn_putTotp (State.totpDigest_congr hsecret hc) hd
  refine ⟨?_, ha.buf .digest (by decide), ha.reg .code (by decide), ha.buf .codeChars (by decide)⟩
  rw [State.finish_counter, State.finish_counter, State.putTotp_counter, State.putTotp_counter, hc]

/-! ### The commands that take a window (R245, R246) -/

section
variable {i : Instr} {x : Bool} (hi : i = .tcount x ∨ i = .totp x) (he : errorOf i s = none)
include hi he

theorem timeStep_ne_zero_of_window : s.timeStep.toNat ≠ 0 := by
  obtain rfl | rfl := hi
  · exact (errorOf_tcount s x).1 he
  · obtain ⟨-, -, hstep⟩ := (errorOf_totp s x).1 he
    exact hstep

/-- TCOUNT and TOTP leave the window of the timestamp they take. -/
theorem holdsWindow_of_exec (h : exec i s = .next t) :
    holdsWindow (s.timeOperand x).toNat s.timeStep.toNat t := by
  rw [exec_of_pass i s he] at h
  cases h
  obtain rfl | rfl := hi
  · exact holdsWindow_putWindow s x
  · exact holdsWindow_putTotp s x

end

/-- Settles O39: both commands leave a window, whose remaining time counts down from the time step to 1. -/
theorem secondsRemainingCountDown : Obligations.SecondsRemainingCountDown := by
  refine ⟨fun i x s s' hi he h => ?_, fun i j x y s t s' t' hi hj he he' hs ht hstep hsucc => ?_⟩
  · have hw := holdsWindow_of_exec hi he h
    exact ⟨hw.secRemain_pos (timeStep_ne_zero_of_window hi he), hw.secRemain_le⟩
  · have hw := holdsWindow_of_exec hj he' ht
    rw [hsucc, ← hstep] at hw
    rw [hsucc]
    exact (holdsWindow_of_exec hi he hs).secRemain_succ hw (timeStep_ne_zero_of_window hi he)

/-- Settles O40: the counters are quotients of the timestamps by one time step. -/
theorem countersFollowTheirTimestamps : Obligations.CountersFollowTheirTimestamps := by
  intro i j x y s t s' t' hi hj he he' hs ht hstep hle
  exact (holdsWindow_of_exec hi he hs).counter_mono (hstep ▸ holdsWindow_of_exec hj he' ht) hle

end Sys2Proof.Machine
end

section
/-! PROOFS, family 45_control. NOP and CLEAR: the two commands without a check. -/

namespace Sys2Proof.Machine

/-! ### NOP (R260) -/

theorem exec_nop (s : State) : exec .nop s = .next s.finish :=
  exec_of_pass _ _ (errorOf_nop s)

/-- A success that finds the sticky fields clear leaves `DONE` alone (R148). -/
theorem Status.word_afterSuccess {x : Status} (herr : x.err = false) (hcode : x.errCode = 0) (hwign : x.wign = false) :
    x.afterSuccess.word = 2 := by
  simp [Status.word, Status.afterSuccess, herr, hcode, hwign]

/-- Settles O14: NOP commits nothing, so its next state is the end of a command on the state itself. -/
theorem nopChangesNoData : Obligations.NopChangesNoData :=
  ⟨decodeCmd_encode .nop, fun s => ⟨_, exec_nop s, rfl, Status.word_afterSuccess⟩⟩

/-! ### CLEAR (R261) -/

theorem exec_clear (s : State) : exec .clear s = .next s.clearData.finish :=
  exec_of_pass _ _ (errorOf_clear s)

/-- CLEAR's sweep reaches every byte of every buffer. -/
theorem State.byteOf_clearData (s : State) (b : Buf) {k : Nat} (h : k < b.size) : s.clearData.byteOf b k = 0 := by
  have hold : b.holds (b.base + k) = true := (Buf.holds_iff b _).2 ⟨by omega, by omega⟩
  have hswept : bufMap.any (fun c => c.holds (b.base + k)) = true :=
    List.any_eq_true.2 ⟨b, by cases b <;> decide, hold⟩
  rw [State.byteOf, State.clearData_mem, Memory.read_clearBufs, if_pos hswept]

theorem sameBytesOutside_clearData (s : State) :
    sameBytesOutside [.inBuf, .keyBuf, .digest, .codeChars] s s.clearData := fun a ha =>
  (WritesOnly.clearData s).mem a fun b _ => ha b (by cases b <;> decide)

/-- CLEAR leaves `CTRL`, `DIGITS`, `TIME_STEP`, `CMD`, `TS_SAMPLE`, the pins and the inputs. -/
theorem finish_clearData_frame (s : State) :
    let t := s.clearData.finish
    t = { s with
      mem := t.mem, inLen := 0, keyLen := 0, timestampLo := 0, timestampHi := 0, counterLo := 0, counterHi := 0
      secRemain := 0, offset := 0, binary := 0, code := 0, decValid := 0, decDropped := 0, decTail := 0
      status := s.status.afterSuccess, phase := .idle } := by
  intro t
  ext1 <;> simp [t, Status.afterSuccess]

/-- Settles O23: CLEAR commits the zeroed data state, and the end of a command adds `STATUS` and the phase only. -/
theorem clearZeroesTheDataState : Obligations.ClearZeroesTheDataState := by
  refine ⟨decodeCmd_encode .clear, fun s => ⟨_, exec_clear s, fun b k hk => ?_, ?_, finish_clearData_frame s⟩⟩
  · rw [State.finish_byteOf, s.byteOf_clearData b hk]
  · rw [sameBytesOutside, State.finish_mem]
    exact sameBytesOutside_clearData s

end Sys2Proof.Machine
end

section
/-! PROOFS, family 70_reset_and_hazards. A step under `RST`; then the host's writes and reads while a command runs. -/

namespace Sys2Proof.Machine

variable {s : State} {p : Place} {op : BitVec 4} {w : Word} {i : Instr}

/-! ### Reset (R300, R301) -/

/-- A step under `RST` serves no agent: it is the reset of the state its input drives. -/
theorem step_reset (hr : s.nextInput.rst = true) : step s = .next (s.driven.applyReset s.nextInput) := by
  simp [step, react, hr, State.driven]

/-- A transaction met by `RST` gets the undefined response (R301, U10). -/
theorem resetResponse_host {inp : Input} {x : HostTxn} (he : inp.event = .host x) :
    inp.resetResponse = some (.undefinedByReset inp.freeData) := by
  rw [Input.resetResponse, he]

/-- Settles O56: the next state is `State.applyReset`, which keeps the pins and the inputs only. -/
theorem resetAbandonsTheCommand : Obligations.ResetAbandonsTheCommand := fun s hr =>
  ⟨s.driven.applyReset s.nextInput, step_reset hr, rfl, rfl, rfl, rfl, hr, fun _ he => resetResponse_host he⟩

/-! ### Writes while busy (R40, R307) -/

/-- The offsets of R307 are mapped, to the busy-protected places. -/
theorem place_of_protectedOffset {off : BitVec 12} (h : protectedOffset off) :
    ∃ p, placeAt off.toNat = some p ∧ p.busyProtected = true := by
  have hm : ¬ malformed off 4 := by
    unfold malformed
    unfold protectedOffset at h
    omega
  obtain ⟨-, p, hp⟩ := mapped_of_not_malformed hm
  exact ⟨p, hp, (placeAt_busyProtected hp).2 h⟩

/-- A write of `CTRL` takes effect in every state (R307). -/
theorem respond_write_ctrl (s : State) (d free : Word) :
    s.respond (.write 0x004 4 d) free = (.okay, { s with ie := d.getLsbD 0 }) := by
  rw [respond_write (p := .reg .ctrl) (by decide), busWrite_reg (.inr rfl)]
  rfl

/-- Settles O44: a protected offset reaches a busy-protected place; `CTRL` and `STATUS` are none. -/
theorem busyWritesAreIgnored : Obligations.BusyWritesAreIgnored := by
  intro s off d free hb
  refine ⟨fun h => ?_, respond_write_ctrl s d free, respond_write_status s d free⟩
  obtain ⟨p, hp, hprot⟩ := place_of_protectedOffset h
  rw [respond_write hp, busWrite_ignored hb hprot]
  rfl

/-! ### Reads while busy (R308) -/

/-- No command writes `CMD` (R141). -/
theorem cmd_not_mem_writeSet (i : Instr) : Place.reg .cmd ∉ Instr.writeSet i := by
  cases i with
  | tcount x | totp x => cases x <;> decide
  | _ => decide

/-- A running command shows `BUSY` (R37). -/
theorem State.Inv.busy_of_running (hinv : s.Inv) (hp : s.phase = .running op w) : s.status.busy = true :=
  hinv.busyRunning.2 (by simp [hp])

/-- While a command runs, exactly the places of its write set read unspecified. -/
theorem readUnspecified_iff_mem_writeSet (hinv : s.Inv) (hp : s.phase = .running op w) (hd : decodeCmd w = .legal i) :
    s.readUnspecified p = true ↔ p ∈ Instr.writeSet i := by
  have hi : s.runningInstr = some i := by simp [State.runningInstr, hp, hd, Decoded.instr?]
  simp [State.readUnspecified, hinv.busy_of_running hp, hi]

theorem busRead_of_mem_writeSet (hinv : s.Inv) (hp : s.phase = .running op w) (hd : decodeCmd w = .legal i)
    (h : p ∈ Instr.writeSet i) (off : Nat) (free : Word) : s.busRead p off free = free :=
  if_pos ((readUnspecified_iff_mem_writeSet hinv hp hd).2 h)

theorem busRead_of_not_mem_writeSet (hinv : s.Inv) (hp : s.phase = .running op w) (hd : decodeCmd w = .legal i)
    (h : p ∉ Instr.writeSet i) (off : Nat) (free : Word) : s.busRead p off free = s.valueAt p off :=
  if_neg (mt (readUnspecified_iff_mem_writeSet hinv hp hd).1 h)

/-- Settles O45: the write set decides between the draw and the value, and it holds neither `STATUS` nor `CMD`. -/
theorem busyReadsAreUnspecified : Obligations.BusyReadsAreUnspecified := by
  intro s op w i off p free hinv hp hd hoff
  refine ⟨fun h => ?_, fun h => ?_, ⟨s.status.word, ?_, ?_⟩, ?_⟩
  · rw [respond_read hoff, busRead_of_mem_writeSet hinv hp hd h]
  · rw [respond_read hoff, busRead_of_not_mem_writeSet hinv hp hd h]
  · rw [respond_read (p := .reg .status) (by decide),
      busRead_of_not_mem_writeSet hinv hp hd (status_not_mem_writeSet i)]
    rfl
  · exact (s.status.word_getLsbD 0).trans (hinv.busy_of_running hp)
  · rw [respond_read placeAt_cmd, busRead_of_not_mem_writeSet hinv hp hd (cmd_not_mem_writeSet i),
      (hinv.runningCmd op w hp).2]
    rfl

end Sys2Proof.Machine
end
